-- ==== Sys2Proof/Word.lean ====
section
/-!
DEFINITION. The word types of base64_core (spec 00_scope.md rule R7): every value is an unsigned bit vector
(rule R8), arithmetic wraps at the stated width (rule R9).
-/

namespace Sys2Proof

/-- BYTE_W: a data byte or a symbol byte, 8 bits, unsigned (R7). -/
abbrev Byte := BitVec 8

/-- SYM_W: a symbol value, 6 bits, 0..63 (R7). -/
abbrev SymVal := BitVec 6

/-- ACC_W: a group accumulator, and the DATA field of a response, 24 bits (R7, R74). -/
abbrev Acc := BitVec 24

/-- CMD_W and RSP_W: a command word or a response word, 32 bits (R7). -/
abbrev Word := BitVec 32

/-- LINE_LEN_W: the line-length register, 16 bits, unsigned (R7). -/
abbrev LineLen := BitVec 16

/-- LINE_CNT_W: the line counter and the threshold, 17 bits, unsigned (R7). -/
abbrev LineCount := BitVec 17

end Sys2Proof
end

