-- ==== Sys2Proof/Config.lean ====
section
/-!
DEFINITION. What an implementation of base64_core fixes (spec 00_scope.md rule R7) and the names of its register
index map (30_encoding.md rule R80). The spec leaves no result of any command open, so there is no free value.
-/

namespace Sys2Proof

/-- SINGLE_SYMBOL_POLICY (R7, 42_decoder.md R155): what DEC_READ does when exactly one symbol precedes
end-of-data. The model takes it as a parameter held in State (notes/assumptions/6.md). -/
inductive SingleSymbolPolicy where
  | emitPartial
  | discard
deriving DecidableEq, Repr

/-- The policy the hardware is built with (R7, R155). -/
def Config.builtPolicy : SingleSymbolPolicy := .emitPartial

/-- MAX_EMIT: the most output bytes one ENC_WRITE appends (R7). -/
def Config.maxEmit : Nat := 6

/-- MAX_TAIL: the most output bytes ENC_FINALIZE appends, the END marker not counted (R7). -/
def Config.maxTail : Nat := 4

/-- The ten registers of the register index map (30_encoding.md R80), by name. -/
inductive Reg where
  | sym62 | sym63 | pad | lineLen
  | lineThresh | encState | encAcc | decState | decAcc | id
deriving DecidableEq, Repr

/-- R80's Access column: the four RW registers. -/
def Reg.writable : Reg → Bool
  | .sym62 | .sym63 | .pad | .lineLen => true
  | .lineThresh | .encState | .encAcc | .decState | .decAcc | .id => false

end Sys2Proof
end

