-- ==== Sys2Proof/Syntax.lean ====
section
/-!
DEFINITION. The commands of base64_core: one constructor for each row of spec/opcode_table.json
(30_encoding.md rule R76). An operand's type is exactly as wide as its field of IMM (rule R73), so an operand that
does not fit its field cannot be written; the checks on command WORDS and on assembler lines are in WellFormed.lean.
-/

namespace Sys2Proof

/-- One command (R76). The core fetches no instructions: a command arrives as a word on the command channel (R3, R21). -/
inductive Instr where
  /-- NOP, `0x00000000` (R190). -/
  | nop
  /-- ENC_WRITE, `0x100000bb` (R122). -/
  | encWrite (b : Byte)
  /-- ENC_FLUSH, `0x20000000` (R123). -/
  | encFlush
  /-- ENC_FINALIZE, `0x30000000` (R124). -/
  | encFinalize
  /-- DEC_READ, `0x40000000` (R153). -/
  | decRead
  /-- DEC_HAS_MORE, `0x50000000` (R156). -/
  | decHasMore
  /-- CFG_WRITE SYM62, `0x600000vv` (R191). -/
  | cfgWriteSym62 (val : Byte)
  /-- CFG_WRITE SYM63, `0x610000vv` (R191). -/
  | cfgWriteSym63 (val : Byte)
  /-- CFG_WRITE PAD, `0x620000vv` (R191). -/
  | cfgWritePad (val : Byte)
  /-- CFG_WRITE LINE_LEN, `0x6300vvvv` (R191). -/
  | cfgWriteLineLen (val : LineLen)
  /-- CFG_READ SYM62, `0x70000000` (R192). -/
  | cfgReadSym62
  /-- CFG_READ SYM63, `0x71000000` (R192). -/
  | cfgReadSym63
  /-- CFG_READ PAD, `0x72000000` (R192). -/
  | cfgReadPad
  /-- CFG_READ LINE_LEN, `0x73000000` (R192). -/
  | cfgReadLineLen
  /-- CFG_READ LINE_THRESH, `0x74000000` (R192). -/
  | cfgReadLineThresh
  /-- CFG_READ ENC_STATE, `0x75000000` (R192). -/
  | cfgReadEncState
  /-- CFG_READ ENC_ACC, `0x76000000` (R192). -/
  | cfgReadEncAcc
  /-- CFG_READ DEC_STATE, `0x77000000` (R192). -/
  | cfgReadDecState
  /-- CFG_READ DEC_ACC, `0x78000000` (R192). -/
  | cfgReadDecAcc
  /-- CFG_READ ID, `0x79000000` (R192). -/
  | cfgReadId
  /-- SRST, `0x8000000m`: m[0] encoder, m[1] decoder, m[2] configuration (R193). -/
  | srst (m : BitVec 3)
deriving DecidableEq, Repr

end Sys2Proof
end

