-- ==== Sys2Proof/WellFormed.lean ====
section
/-!
DEFINITION. The checks a command word and an assembler line must pass. An Instr needs none: its operands are as wide
as their fields by type (30_encoding.md rule R73).
-/

namespace Sys2Proof

/-- Rule R77's field constraints, with R78, R79 and R81, on the numbers in the fields OP, IDX and IMM. -/
def fieldsWellFormed (op idx imm : Nat) : Bool :=
  match op with
  | 0x0 | 0x2 | 0x3 | 0x4 | 0x5 => idx == 0 && imm == 0
  | 0x1 => idx == 0 && imm < 0x100
  | 0x6 => (idx < 3 && imm < 0x100) || (idx == 3 && imm < 0x10000)
  | 0x7 => idx < 0xA && imm == 0
  | 0x8 => idx == 0 && imm < 8
  | _ => false

/-- The words that are legal commands (R77), read off the three fields of the word (R70) and independent of the decoder. -/
def wordWellFormed (w : Word) : Bool :=
  fieldsWellFormed (w.toNat / 0x10000000) (w.toNat / 0x1000000 % 0x10) (w.toNat % 0x1000000)

/-- The bits an SRST mask names in assembler text (R85). -/
inductive SrstBit where
  | enc | dec | cfg
deriving DecidableEq, Repr

/-- One assembler line (R85) or pseudo-command with a fixed expansion (R86, R88), its numbers as written and not yet
checked against their fields. DEC_READN (R87) has no fixed expansion: it is a host loop (Machine/HostLoop.lean). -/
inductive AsmLine where
  | nop
  | encWrite (byte : Nat)
  | encFlush
  | encFinalize
  | decRead
  | decHasMore
  | cfgWrite (reg : Reg) (value : Nat)
  | cfgRead (reg : Reg)
  | srst (mask : List SrstBit)
  | word (w : Nat)
  | encWriteN (bytes : List Nat)
  | cfgInit (sym62 sym63 pad lineLen : Nat)
deriving DecidableEq, Repr

/-- "refuses (at assembly time) a value that does not fit its field" (R85): 8-bit registers and data bytes, the 16-bit
line length, the 32-bit raw word, and only a `<wreg>` written. -/
def AsmLine.wellFormed : AsmLine → Bool
  | .nop | .encFlush | .encFinalize | .decRead | .decHasMore | .cfgRead _ | .srst _ => true
  | .encWrite byte => byte < 0x100
  | .cfgWrite .lineLen value => value < 0x10000
  | .cfgWrite reg value => reg.writable && value < 0x100
  | .word w => w < 0x100000000
  | .encWriteN bytes => bytes.all (· < 0x100)
  | .cfgInit sym62 sym63 pad lineLen => sym62 < 0x100 && sym63 < 0x100 && pad < 0x100 && lineLen < 0x10000

end Sys2Proof
end

