-- ==== Sys2Proof/Decode.lean ====
section
/-!
DEFINITION. Decoding and encoding of command words (30_encoding.md rules R70 to R84). The decoder is total (R84): a
word is one row of rule R76 or is rejected by the name of what makes it Illegal (60_exceptions.md rule R211).
-/

namespace Sys2Proof

/-- Why a word is no command: the causes rule R211 lists. The response does not tell them apart (DATA = 0). -/
inductive DecodeError where
  /-- Opcode 0x9..0xF (R78). -/
  | reservedOpcode
  /-- CFG_READ or CFG_WRITE of index 0xA..0xF (R79). -/
  | reservedIndex
  /-- CFG_WRITE of a read-only index 0x4..0x9 (R79). -/
  | readOnlyIndex
  /-- An IDX or IMM bit that must be 0 is set (R77, R81). -/
  | reservedBits
deriving DecidableEq, Repr

/-- OP, bits [31:28] (R70). -/
def opField (w : Word) : BitVec 4 := w.extractLsb' 28 4

/-- IDX, bits [27:24] (R70, R72). -/
def idxField (w : Word) : BitVec 4 := w.extractLsb' 24 4

/-- IMM, bits [23:0] (R70). -/
def immField (w : Word) : BitVec 24 := w.extractLsb' 0 24

/-- `{OP, IDX, IMM}` (R70). -/
def commandWord (op idx : BitVec 4) (imm : BitVec 24) : Word := op ++ idx ++ imm

/-- The index of a register (R80). -/
def Reg.index : Reg → BitVec 4
  | .sym62 => 0x0#4
  | .sym63 => 0x1#4
  | .pad => 0x2#4
  | .lineLen => 0x3#4
  | .lineThresh => 0x4#4
  | .encState => 0x5#4
  | .encAcc => 0x6#4
  | .decState => 0x7#4
  | .decAcc => 0x8#4
  | .id => 0x9#4

/-- The register an index names, none for the reserved 0xA..0xF (R79, R80). -/
def regAt (idx : BitVec 4) : Option Reg :=
  if idx = 0x0#4 then some .sym62
  else if idx = 0x1#4 then some .sym63
  else if idx = 0x2#4 then some .pad
  else if idx = 0x3#4 then some .lineLen
  else if idx = 0x4#4 then some .lineThresh
  else if idx = 0x5#4 then some .encState
  else if idx = 0x6#4 then some .encAcc
  else if idx = 0x7#4 then some .decState
  else if idx = 0x8#4 then some .decAcc
  else if idx = 0x9#4 then some .id
  else none

/-- The low byte of IMM where the bits above it are 0 (R73, R77). -/
def byteOperand (imm : BitVec 24) : Option Byte :=
  if imm.extractLsb' 8 16 = 0 then some (imm.extractLsb' 0 8) else none

/-- The low 16 bits of IMM where the bits above them are 0 (R73, R77). -/
def lineLenOperand (imm : BitVec 24) : Option LineLen :=
  if imm.extractLsb' 16 8 = 0 then some (imm.extractLsb' 0 16) else none

/-- SRST's mask where the bits above it are 0 (R73, R77). -/
def maskOperand (imm : BitVec 24) : Option (BitVec 3) :=
  if imm.extractLsb' 3 21 = 0 then some (imm.extractLsb' 0 3) else none

/-- A command whose IDX and IMM must be 0 (R77). -/
def decodeBare (idx : BitVec 4) (imm : BitVec 24) (i : Instr) : Except DecodeError Instr :=
  if idx = 0 ∧ imm = 0 then .ok i else .error .reservedBits

/-- A command with an operand in IMM, or the set reserved bits that spoil it. -/
def decodeOperand {α : Type} (operand : Option α) (f : α → Instr) : Except DecodeError Instr :=
  match operand with
  | some x => .ok (f x)
  | none => .error .reservedBits

/-- CFG_WRITE (R77, R79, R191). -/
def decodeCfgWrite (idx : BitVec 4) (imm : BitVec 24) : Except DecodeError Instr :=
  match regAt idx with
  | some .sym62 => decodeOperand (byteOperand imm) .cfgWriteSym62
  | some .sym63 => decodeOperand (byteOperand imm) .cfgWriteSym63
  | some .pad => decodeOperand (byteOperand imm) .cfgWritePad
  | some .lineLen => decodeOperand (lineLenOperand imm) .cfgWriteLineLen
  | some _ => .error .readOnlyIndex
  | none => .error .reservedIndex

/-- The CFG_READ of a register (R192). -/
def cfgReadOf : Reg → Instr
  | .sym62 => .cfgReadSym62
  | .sym63 => .cfgReadSym63
  | .pad => .cfgReadPad
  | .lineLen => .cfgReadLineLen
  | .lineThresh => .cfgReadLineThresh
  | .encState => .cfgReadEncState
  | .encAcc => .cfgReadEncAcc
  | .decState => .cfgReadDecState
  | .decAcc => .cfgReadDecAcc
  | .id => .cfgReadId

/-- CFG_READ (R77, R79, R192). -/
def decodeCfgRead (idx : BitVec 4) (imm : BitVec 24) : Except DecodeError Instr :=
  match regAt idx with
  | some r => if imm = 0 then .ok (cfgReadOf r) else .error .reservedBits
  | none => .error .reservedIndex

/-- The decoder (R71, R76 to R79, R81, R84). -/
def decode (w : Word) : Except DecodeError Instr :=
  let op := opField w
  let idx := idxField w
  let imm := immField w
  if op = 0x0#4 then decodeBare idx imm .nop
  else if op = 0x1#4 then
    if idx = 0 then decodeOperand (byteOperand imm) .encWrite else .error .reservedBits
  else if op = 0x2#4 then decodeBare idx imm .encFlush
  else if op = 0x3#4 then decodeBare idx imm .encFinalize
  else if op = 0x4#4 then decodeBare idx imm .decRead
  else if op = 0x5#4 then decodeBare idx imm .decHasMore
  else if op = 0x6#4 then decodeCfgWrite idx imm
  else if op = 0x7#4 then decodeCfgRead idx imm
  else if op = 0x8#4 then
    if idx = 0 then decodeOperand (maskOperand imm) .srst else .error .reservedBits
  else .error .reservedOpcode

/-- The encoder: each row of rule R76, its operand zero-extended into IMM (R73). -/
def encode : Instr → Word
  | .nop => commandWord 0x0#4 0 0
  | .encWrite b => commandWord 0x1#4 0 (b.setWidth 24)
  | .encFlush => commandWord 0x2#4 0 0
  | .encFinalize => commandWord 0x3#4 0 0
  | .decRead => commandWord 0x4#4 0 0
  | .decHasMore => commandWord 0x5#4 0 0
  | .cfgWriteSym62 val => commandWord 0x6#4 (Reg.index .sym62) (val.setWidth 24)
  | .cfgWriteSym63 val => commandWord 0x6#4 (Reg.index .sym63) (val.setWidth 24)
  | .cfgWritePad val => commandWord 0x6#4 (Reg.index .pad) (val.setWidth 24)
  | .cfgWriteLineLen val => commandWord 0x6#4 (Reg.index .lineLen) (val.setWidth 24)
  | .cfgReadSym62 => commandWord 0x7#4 (Reg.index .sym62) 0
  | .cfgReadSym63 => commandWord 0x7#4 (Reg.index .sym63) 0
  | .cfgReadPad => commandWord 0x7#4 (Reg.index .pad) 0
  | .cfgReadLineLen => commandWord 0x7#4 (Reg.index .lineLen) 0
  | .cfgReadLineThresh => commandWord 0x7#4 (Reg.index .lineThresh) 0
  | .cfgReadEncState => commandWord 0x7#4 (Reg.index .encState) 0
  | .cfgReadEncAcc => commandWord 0x7#4 (Reg.index .encAcc) 0
  | .cfgReadDecState => commandWord 0x7#4 (Reg.index .decState) 0
  | .cfgReadDecAcc => commandWord 0x7#4 (Reg.index .decAcc) 0
  | .cfgReadId => commandWord 0x7#4 (Reg.index .id) 0
  | .srst m => commandWord 0x8#4 0 (m.setWidth 24)

/-- One line of the opcode map of rule R76: the mnemonic of spec/opcode_table.json, the fixed bits of the encoding and
the mask of the bits that are fixed. -/
structure OpcodeRow where
  mnemonic : String
  pattern : Word
  mask : Word
deriving DecidableEq, Repr

/-- The word has the row's value in every fixed bit. -/
def OpcodeRow.covers (r : OpcodeRow) (w : Word) : Bool := w &&& r.mask == r.pattern

/-- Two rows differ in a bit that both fix, so no word is covered by both. -/
def OpcodeRow.disjoint (a b : OpcodeRow) : Bool := a.mask &&& b.mask &&& (a.pattern ^^^ b.pattern) != 0

/-- Rule R76's rows of opcodes 0x0 to 0x5. -/
def opcodeMapCore : List OpcodeRow :=
  [ ⟨"NOP", 0x00000000, 0xFFFFFFFF⟩, ⟨"ENC_WRITE", 0x10000000, 0xFFFFFF00⟩,
    ⟨"ENC_FLUSH", 0x20000000, 0xFFFFFFFF⟩, ⟨"ENC_FINALIZE", 0x30000000, 0xFFFFFFFF⟩,
    ⟨"DEC_READ", 0x40000000, 0xFFFFFFFF⟩, ⟨"DEC_HAS_MORE", 0x50000000, 0xFFFFFFFF⟩ ]

/-- Rule R76's CFG_WRITE rows. -/
def opcodeMapCfgWrite : List OpcodeRow :=
  [ ⟨"CFG_WRITE_SYM62", 0x60000000, 0xFFFFFF00⟩, ⟨"CFG_WRITE_SYM63", 0x61000000, 0xFFFFFF00⟩,
    ⟨"CFG_WRITE_PAD", 0x62000000, 0xFFFFFF00⟩, ⟨"CFG_WRITE_LINE_LEN", 0x63000000, 0xFFFF0000⟩ ]

/-- Rule R76's CFG_READ rows. -/
def opcodeMapCfgRead : List OpcodeRow :=
  [ ⟨"CFG_READ_SYM62", 0x70000000, 0xFFFFFFFF⟩, ⟨"CFG_READ_SYM63", 0x71000000, 0xFFFFFFFF⟩,
    ⟨"CFG_READ_PAD", 0x72000000, 0xFFFFFFFF⟩, ⟨"CFG_READ_LINE_LEN", 0x73000000, 0xFFFFFFFF⟩,
    ⟨"CFG_READ_LINE_THRESH", 0x74000000, 0xFFFFFFFF⟩, ⟨"CFG_READ_ENC_STATE", 0x75000000, 0xFFFFFFFF⟩,
    ⟨"CFG_READ_ENC_ACC", 0x76000000, 0xFFFFFFFF⟩, ⟨"CFG_READ_DEC_STATE", 0x77000000, 0xFFFFFFFF⟩,
    ⟨"CFG_READ_DEC_ACC", 0x78000000, 0xFFFFFFFF⟩, ⟨"CFG_READ_ID", 0x79000000, 0xFFFFFFFF⟩ ]

/-- The opcode map of rule R76, in its order. -/
def opcodeMap : List OpcodeRow :=
  opcodeMapCore ++ opcodeMapCfgWrite ++ opcodeMapCfgRead ++ [⟨"SRST", 0x80000000, 0xFFFFFFF8⟩]

/-- The row of the opcode map a command belongs to, by its mnemonic in spec/opcode_table.json. -/
def mnemonicOf : Instr → String
  | .nop => "NOP"
  | .encWrite _ => "ENC_WRITE"
  | .encFlush => "ENC_FLUSH"
  | .encFinalize => "ENC_FINALIZE"
  | .decRead => "DEC_READ"
  | .decHasMore => "DEC_HAS_MORE"
  | .cfgWriteSym62 _ => "CFG_WRITE_SYM62"
  | .cfgWriteSym63 _ => "CFG_WRITE_SYM63"
  | .cfgWritePad _ => "CFG_WRITE_PAD"
  | .cfgWriteLineLen _ => "CFG_WRITE_LINE_LEN"
  | .cfgReadSym62 => "CFG_READ_SYM62"
  | .cfgReadSym63 => "CFG_READ_SYM63"
  | .cfgReadPad => "CFG_READ_PAD"
  | .cfgReadLineLen => "CFG_READ_LINE_LEN"
  | .cfgReadLineThresh => "CFG_READ_LINE_THRESH"
  | .cfgReadEncState => "CFG_READ_ENC_STATE"
  | .cfgReadEncAcc => "CFG_READ_ENC_ACC"
  | .cfgReadDecState => "CFG_READ_DEC_STATE"
  | .cfgReadDecAcc => "CFG_READ_DEC_ACC"
  | .cfgReadId => "CFG_READ_ID"
  | .srst _ => "SRST"

/-- The instruction the decoder reads from a table row's word: the low `nbits` bits of `w`, every bit above them 0. A
command is exactly one 32-bit word (R83), so no longer one exists. -/
def decodeTableWord (nbits w : Nat) : Option Instr :=
  if nbits ≤ 32 then (decode (BitVec.ofNat 32 (w % 2 ^ nbits))).toOption else none

end Sys2Proof
end

