-- ==== Sys2Proof/Machine/State.lean ====
section
/-!
DEFINITION. The state of base64_core (spec 10_state.md), the channels and pins around it (20_memory.md R50 to R55,
R66), the command in progress (R53, R55, R60), the reasons a step can stop, and the state after reset (R43, R240).
-/

namespace Sys2Proof.Machine

/-- The configuration registers, read by encoder and decoder alike (R22 to R25). -/
structure Cfg where
  /-- `cfg.sym62` (R22). -/
  sym62 : Byte
  /-- `cfg.sym63` (R23). -/
  sym63 : Byte
  /-- `cfg.pad`, 0 for none (R24). -/
  pad : Byte
  /-- `cfg.line_len`, 0 for no wrapping (R25). -/
  lineLen : LineLen
deriving DecidableEq, Repr

/-- The values of `enc.step` (R28): the number of bytes of the current group in `enc.acc`. "The value 3 is never
written", so it is no value here. DEDUCED, safe (notes/assumptions/10.md). -/
inductive EncStep where
  | zero | one | two
deriving DecidableEq, Repr

/-- The encoder registers (R27 to R29). -/
structure Enc where
  /-- `enc.acc`: first byte of the group in [23:16], second in [15:8], third in [7:0] (R27). -/
  acc : Acc
  /-- `enc.step` (R28). -/
  step : EncStep
  /-- `enc.linecnt`: symbols emitted since the last line break (R29). -/
  linecnt : LineCount
deriving DecidableEq, Repr

/-- The decoder registers (R31 to R35). -/
structure Dec where
  /-- `dec.acc`: the symbol values of the group last assembled, the first in [23:18] (R31). -/
  acc : Acc
  /-- `dec.fill`: the number of bytes the group yields (R32). -/
  fill : BitVec 2
  /-- `dec.step`: the number of those already returned (R33). -/
  step : BitVec 2
  /-- `dec.exhausted`: END or a padding byte has been taken (R34). -/
  exhausted : Bool
  /-- `dec.err`: an invalid symbol has been taken (R35), sticky. -/
  err : Bool
deriving DecidableEq, Repr

/-- An item of the input channel (R51). -/
inductive InItem where
  /-- `BYTE(b)`. -/
  | byte (b : Byte)
  /-- `END`: the stream has no more bytes. -/
  | endOfStream
deriving DecidableEq, Repr

/-- An item of the output channel (R54). -/
inductive OutItem where
  /-- `BYTE(b)`. -/
  | byte (b : Byte)
  /-- `FLUSH`. -/
  | flush
  /-- `END`. -/
  | endOfStream
deriving DecidableEq, Repr

/-- What the environment is ready to accept on a channel before it makes the core wait (R55, R66, R246). The model's
own form of `out_ready` and `rsp_ready`. DESIGN CHOICE (notes/assumptions/4.md). -/
inductive Ready where
  /-- Every item is accepted. -/
  | always
  /-- `n` more items are accepted, then none until the environment is ready again. -/
  | times (n : Nat)
deriving DecidableEq, Repr

/-- The command in progress, where it waits and what it holds meanwhile (R53, R55, R60, R246). -/
inductive Progress where
  /-- No command in progress and the previous response transferred (R66). -/
  | idle
  /-- DEC_READ waits in InTake() with the symbol values v1, v2, … fetched so far (R151, R153). -/
  | fetch (syms : List SymVal)
  /-- DEC_HAS_MORE waits in InPeek() (R156). -/
  | peek
  /-- An encoder command waits in OutEmit() with these items still to append; it then answers OK 0 (R55). -/
  | emit (items : List OutItem)
  /-- The command is done but its response word is not yet transferred (R246, R250). -/
  | respond (w : Word)
deriving DecidableEq, Repr

/-- The machine: the core's registers, the command in progress, and the channels and pins around the core. -/
structure State where
  cfg : Cfg
  enc : Enc
  dec : Dec
  /-- SINGLE_SYMBOL_POLICY: a build parameter no command changes (R44, R155; notes/assumptions/6.md). -/
  policy : SingleSymbolPolicy
  progress : Progress
  /-- The command channel: words issued by the host and not accepted yet, oldest first (R62, R66). -/
  cmds : List Word
  /-- The input channel: items delivered and not taken yet, oldest first (R51, R52). -/
  inp : List InItem
  /-- The output channel: every item appended so far, oldest first (R54). -/
  out : List OutItem
  /-- The response channel: every response word transferred so far, oldest first (R62, R74). -/
  rsp : List Word
  /-- The environment's readiness on the output channel (R55). -/
  outReady : Ready
  /-- The host's readiness on the response channel (R246). -/
  rspReady : Ready
  /-- The reset pin, 1 at the next rising edge of `clk` (R66, R240; notes/assumptions/5.md). -/
  rst : Bool
deriving DecidableEq, Repr

/-- The reasons a step can stop with a fault. There is none: "The core has no trap mechanism" (60_exceptions.md R210),
every error is a response, and a wait is a state in which a step changes nothing (R53; notes/assumptions/2.md). No
constructor, so nobody raises one: neither safe nor unsafe. -/
inductive Fault
deriving DecidableEq, Repr

/-- The reasons a step has no meaning. -/
inductive Refusal where
  /-- An arm of exec whose command has no meaning yet. No arm raises it: every command has its meaning. Safe. -/
  | notModelled (mnemonic : String)
deriving DecidableEq, Repr

/-- The configuration after reset: '+', '/', '=', wrapping off (R43). -/
def Cfg.reset : Cfg := { sym62 := 0x2B, sym63 := 0x2F, pad := 0x3D, lineLen := 0 }

/-- The encoder after reset (R43). -/
def Enc.reset : Enc := { acc := 0, step := .zero, linecnt := 0 }

/-- The decoder after reset (R43). -/
def Dec.reset : Dec := { acc := 0, fill := 0, step := 0, exhausted := false, err := false }

/-- The machine right after reset (R43, R240, R241). The channels and pins are the environment's: DESIGN CHOICE empty
channels, an environment that is always ready, `rst` released (notes/assumptions/4.md, 5.md, 7.md, 8.md). -/
def State.reset : State where
  cfg := Cfg.reset
  enc := Enc.reset
  dec := Dec.reset
  policy := Config.builtPolicy
  progress := .idle
  cmds := []
  inp := []
  out := []
  rsp := []
  outReady := .always
  rspReady := .always
  rst := false

end Sys2Proof.Machine
end

