-- ==== Sys2Proof/Machine/Flags.lean ====
section
/-!
DEFINITION. The core's only status flags, `dec.exhausted` and `dec.err` (10_state.md R34, R35, R41), and the word
through which the host reads them (R38). There are no condition codes and the encoder has no flag (R41).
-/

namespace Sys2Proof.Machine

/-- The decoder with `dec.exhausted` at a value: it is set when END or a padding byte is taken (R34). -/
def Dec.setExhausted (d : Dec) (v : Bool) : Dec := { d with exhausted := v }

/-- The decoder with a symbol fault recorded: `dec.fill <- 0; dec.step <- 0; dec.acc unchanged; dec.err <- 1` (R212). -/
def Dec.faulted (d : Dec) : Dec := { d with fill := 0, step := 0, err := true }

/-- A decoded byte is pending: `dec.step < dec.fill` (R33, R153, R156). -/
def Dec.pending (d : Dec) : Bool := d.step.ult d.fill

/-- DEC_STATE: `{dec.err, dec.exhausted, dec.step, dec.fill}` zero-extended (R38). -/
def decStateData (d : Dec) : Acc :=
  (BitVec.ofBool d.err ++ BitVec.ofBool d.exhausted ++ d.step ++ d.fill).setWidth 24

end Sys2Proof.Machine
end

