-- ==== Sys2Proof/Machine/Operands.lean ====
section
/-!
DEFINITION. Bit fields, byte order and the values commands compute from them: response words (30_encoding.md R74,
R75), the threshold ceil4 (00_scope.md R9), the bytes and symbols of a 24-bit group (20_memory.md R56, R57) and the
read data of every register (10_state.md R22 to R40).
-/

namespace Sys2Proof.Machine

/-- The result codes of R75, the only ones a response may hold. -/
inductive ResultCode where
  | ok | byte | eod | errIllegal | errSymbol
deriving DecidableEq, Repr

/-- RC, bits [31:28] of the response (R75). -/
def ResultCode.bits : ResultCode → BitVec 4
  | .ok => 0x0#4
  | .byte => 0x1#4
  | .eod => 0x2#4
  | .errIllegal => 0x8#4
  | .errSymbol => 0x9#4

/-- `{rc[3:0], 4'h0, data[23:0]}` (R74). -/
def responseWord (rc : ResultCode) (data : Acc) : Word := rc.bits ++ 0#4 ++ data

/-- RC of a response word (R74). -/
def responseCode (w : Word) : BitVec 4 := w.extractLsb' 28 4

/-- `DATA[7:0]` of a response word (R74, R75). -/
def responseByte (w : Word) : Byte := w.extractLsb' 0 8

/-- `ceil4(L) = ((L + 3) >> 2) << 2` in 17 bits (R9): the line threshold T (R26). -/
def ceil4 (l : LineLen) : LineCount := ((l.setWidth 17 + 3) >>> 2) <<< 2

/-- The group's first byte, bits [23:16] (R27, R31). -/
def byte1 (a : Acc) : Byte := a.extractLsb' 16 8

/-- The group's second byte, bits [15:8]. -/
def byte2 (a : Acc) : Byte := a.extractLsb' 8 8

/-- The group's third byte, bits [7:0]. -/
def byte3 (a : Acc) : Byte := a.extractLsb' 0 8

/-- The group's first symbol value, bits [23:18] (R56, R57). -/
def sym1 (a : Acc) : SymVal := a.extractLsb' 18 6

/-- The second symbol value, bits [17:12]. -/
def sym2 (a : Acc) : SymVal := a.extractLsb' 12 6

/-- The third symbol value, bits [11:6]. -/
def sym3 (a : Acc) : SymVal := a.extractLsb' 6 6

/-- The fourth symbol value, bits [5:0]. -/
def sym4 (a : Acc) : SymVal := a.extractLsb' 0 6

/-- `{b1, b2, b3}` (R56). -/
def ofBytes (b1 b2 b3 : Byte) : Acc := b1 ++ b2 ++ b3

/-- `{v1, v2, v3, v4}` (R57). -/
def ofSyms (v1 v2 v3 v4 : SymVal) : Acc := v1 ++ v2 ++ v3 ++ v4

/-- The assembled value of a group's symbols in the order fetched, "missing symbol values taken as 0" (R152). -/
def assemble (vs : List SymVal) : Acc := ofSyms (vs.getD 0 0) (vs.getD 1 0) (vs.getD 2 0) (vs.getD 3 0)

/-- `enc.step` as its two bits (R28). -/
def EncStep.bits : EncStep → BitVec 2
  | .zero => 0
  | .one => 1
  | .two => 2

/-- ENC_STATE: `{enc.linecnt, enc.step}` zero-extended (R37). -/
def encStateData (e : Enc) : Acc := (e.linecnt ++ e.step.bits).setWidth 24

/-- The constant ID (R40). -/
def idData : Acc := 0x0B6407

end Sys2Proof.Machine
end

