-- ==== Sys2Proof/Machine/Ops.lean ====
section
/-!
DEFINITION. The operations every command is written from (spec 00_scope.md R10, R11): the updates of one block of
registers, the channel primitives, the response, the two exceptions, reset, and taking the next command word.
-/

namespace Sys2Proof.Machine

/-! ## Updates of one block -/

/-- `x <- v` for configuration registers (R10). -/
def State.withCfg (s : State) (c : Cfg) : State := { s with cfg := c }

/-- `x <- v` for encoder registers (R10). -/
def State.withEnc (s : State) (e : Enc) : State := { s with enc := e }

/-- `x <- v` for decoder registers (R10). -/
def State.withDec (s : State) (d : Dec) : State := { s with dec := d }

/-- The input channel after items have been taken (R52). -/
def State.withInp (s : State) (l : List InItem) : State := { s with inp := l }

/-- What the command in progress waits for. -/
def State.withProgress (s : State) (p : Progress) : State := { s with progress := p }

/-! ## Readiness of the environment (R55, R66) -/

/-- How many of `n` items the environment accepts now. -/
def Ready.grant : Ready → Nat → Nat
  | .always, n => n
  | .times k, n => min k n

/-- The readiness left after `n` items have transferred. -/
def Ready.spend : Ready → Nat → Ready
  | .always, _ => .always
  | .times k, n => .times (k - n)

/-- The environment accepts `n` items without making the core wait. -/
def Ready.accepts : Ready → Nat → Bool
  | .always, _ => true
  | .times k, n => n ≤ k

/-! ## Input channel -/

/-- `InPeek()`: the next item, not taken; none where the command must wait (R53). -/
def inPeek (s : State) : Option InItem := s.inp.head?

/-- `InTake()` of an item that is there: the channel without it (R53). -/
def inTake (s : State) : State := s.withInp s.inp.tail

/-! ## Response and output channel -/

/-- The response word transfers when the host is ready, which ends the command; until then it waits (R246, R250). -/
def sendResponse (w : Word) (s : State) : State :=
  if s.rspReady.accepts 1 then
    { s with rsp := s.rsp ++ [w], rspReady := s.rspReady.spend 1, progress := .idle }
  else s.withProgress (.respond w)

/-- `Respond(rc, data)`, a command's last action (R11, R74). -/
def respond (rc : ResultCode) (data : Acc) (s : State) : State := sendResponse (responseWord rc data) s

/-- Appends to the output channel as many of the items, in order, as the environment accepts now (R55). -/
def appendOut (items : List OutItem) (s : State) : State :=
  { s with
    out := s.out ++ items.take (s.outReady.grant items.length)
    outReady := s.outReady.spend (s.outReady.grant items.length) }

/-- `OutEmit(item)` of each item in order, then `Respond(OK, 0)`: the shape of every encoder command's end. Where the
environment does not accept an item the command waits with the items that are left (R55). -/
def emitThenOk (items : List OutItem) (s : State) : State :=
  if s.outReady.accepts items.length then respond .ok 0 (appendOut items s)
  else (appendOut items s).withProgress (.emit (items.drop (s.outReady.grant items.length)))

/-! ## Exceptions: an error is a response (60_exceptions.md R210) -/

/-- The two exceptions of R11. There is no handler, no saved register and no return (R210, R217). -/
inductive Exception where
  | illegal
  | symbolFault
deriving DecidableEq, Repr

/-- `raise Exception`: Illegal has no effect but its response (R211); SymbolFault clears `dec.fill` and `dec.step`, sets
`dec.err` and answers (R212). -/
def raise : Exception → State → State
  | .illegal, s => respond .errIllegal 0 s
  | .symbolFault, s => respond .errSymbol 0 (s.withDec s.dec.faulted)

/-! ## Reset (70_reset_and_hazards.md R240) -/

/-- A rising edge with `rst` = 1: every register takes its reset value and the command in progress is abandoned without
a response; items already emitted or taken stay so, and the channels are not the core's (R60, R240, R241). The pin is
released with the edge: DESIGN CHOICE (notes/assumptions/5.md). -/
def resetEdge (s : State) : State :=
  { s with cfg := Cfg.reset, enc := Enc.reset, dec := Dec.reset, progress := .idle, rst := false }

/-! ## Commands -/

/-- The next command word, accepted from the command channel; none where the host has issued none (R62, R241). -/
def takeCommand (s : State) : Option (Word × State) :=
  match s.cmds with
  | [] => none
  | w :: rest => some (w, { s with cmds := rest })

/-- The state in which the core is idle and the word with the low `nbits` bits of `w` is the next command. -/
def issueNext (s : State) (nbits w : Nat) : State :=
  { s with cmds := BitVec.ofNat 32 (w % 2 ^ nbits) :: s.cmds, progress := .idle, rst := false }

end Sys2Proof.Machine
end

