-- ==== Sys2Proof/Machine/Control.lean ====
section
/-!
DEFINITION. The control commands (spec 43_control.md): NOP, CFG_WRITE, CFG_READ, SRST. None touches a channel.
-/

namespace Sys2Proof.Machine

/-- NOP (R190). -/
def execNop (s : State) : Host.Outcome State Fault Refusal := .next (respond .ok 0 s)

/-! ## CFG_WRITE (R191) -/

/-- A configuration register is written and OK 0 answered; the value counts from the next command on (R191, R194). -/
def configure (c : Cfg) (s : State) : Host.Outcome State Fault Refusal := .next (respond .ok 0 (s.withCfg c))

/-- CFG_WRITE SYM62 (R191). -/
def execCfgWriteSym62 (val : Byte) (s : State) : Host.Outcome State Fault Refusal :=
  configure { s.cfg with sym62 := val } s

/-- CFG_WRITE SYM63 (R191). -/
def execCfgWriteSym63 (val : Byte) (s : State) : Host.Outcome State Fault Refusal :=
  configure { s.cfg with sym63 := val } s

/-- CFG_WRITE PAD (R191). -/
def execCfgWritePad (val : Byte) (s : State) : Host.Outcome State Fault Refusal :=
  configure { s.cfg with pad := val } s

/-- CFG_WRITE LINE_LEN (R191). -/
def execCfgWriteLineLen (val : LineLen) (s : State) : Host.Outcome State Fault Refusal :=
  configure { s.cfg with lineLen := val } s

/-! ## CFG_READ (R192) -/

/-- The 24-bit read data of a register, right-aligned and zero-extended (R58, R80, R192). -/
def readReg (s : State) : Reg → Acc
  | .sym62 => s.cfg.sym62.setWidth 24
  | .sym63 => s.cfg.sym63.setWidth 24
  | .pad => s.cfg.pad.setWidth 24
  | .lineLen => s.cfg.lineLen.setWidth 24
  | .lineThresh => (ceil4 s.cfg.lineLen).setWidth 24
  | .encState => encStateData s.enc
  | .encAcc => s.enc.acc
  | .decState => decStateData s.dec
  | .decAcc => s.dec.acc
  | .id => idData

/-- A register is read and nothing changes (R61, R192). -/
def answerReg (r : Reg) (s : State) : Host.Outcome State Fault Refusal := .next (respond .ok (readReg s r) s)

/-- CFG_READ SYM62 (R192). -/
def execCfgReadSym62 (s : State) : Host.Outcome State Fault Refusal := answerReg .sym62 s

/-- CFG_READ SYM63 (R192). -/
def execCfgReadSym63 (s : State) : Host.Outcome State Fault Refusal := answerReg .sym63 s

/-- CFG_READ PAD (R192). -/
def execCfgReadPad (s : State) : Host.Outcome State Fault Refusal := answerReg .pad s

/-- CFG_READ LINE_LEN (R192). -/
def execCfgReadLineLen (s : State) : Host.Outcome State Fault Refusal := answerReg .lineLen s

/-- CFG_READ LINE_THRESH (R192). -/
def execCfgReadLineThresh (s : State) : Host.Outcome State Fault Refusal := answerReg .lineThresh s

/-- CFG_READ ENC_STATE (R192). -/
def execCfgReadEncState (s : State) : Host.Outcome State Fault Refusal := answerReg .encState s

/-- CFG_READ ENC_ACC (R192). -/
def execCfgReadEncAcc (s : State) : Host.Outcome State Fault Refusal := answerReg .encAcc s

/-- CFG_READ DEC_STATE (R192): not blocked by `dec.err`. -/
def execCfgReadDecState (s : State) : Host.Outcome State Fault Refusal := answerReg .decState s

/-- CFG_READ DEC_ACC (R192). -/
def execCfgReadDecAcc (s : State) : Host.Outcome State Fault Refusal := answerReg .decAcc s

/-- CFG_READ ID (R192). -/
def execCfgReadId (s : State) : Host.Outcome State Fault Refusal := answerReg .id s

/-! ## SRST (R193) -/

/-- The selected blocks at "exactly its reset values"; no channel is touched (R193). -/
def softReset (m : BitVec 3) (s : State) : State :=
  { s with
    enc := if m.getLsbD 0 then Enc.reset else s.enc
    dec := if m.getLsbD 1 then Dec.reset else s.dec
    cfg := if m.getLsbD 2 then Cfg.reset else s.cfg }

/-- SRST (R193). -/
def execSrst (m : BitVec 3) (s : State) : Host.Outcome State Fault Refusal := .next (respond .ok 0 (softReset m s))

end Sys2Proof.Machine
end

