-- ==== Sys2Proof/Machine/Alphabet.lean ====
section
/-!
DEFINITION. alphabet_codec (spec 40_alphabet.md): the two combinational functions of the configuration registers, and
the decoder's classification of an input byte (42_decoder.md R150).
-/

namespace Sys2Proof.Machine

/-- `encodeSymbol(v)` (R100). -/
def encodeSymbol (c : Cfg) (v : SymVal) : Byte :=
  if v ≤ 25#6 then 0x41#8 + v.setWidth 8
  else if v ≤ 51#6 then 0x61#8 + (v - 26#6).setWidth 8
  else if v ≤ 61#6 then 0x30#8 + (v - 52#6).setWidth 8
  else if v = 62#6 then c.sym62
  else c.sym63

/-- `decodeSymbol(s)`, none for NotFound (R103): a fixed range wins over `cfg.sym62`, and that over `cfg.sym63` (R104). -/
def decodeSymbol (c : Cfg) (s : Byte) : Option SymVal :=
  if 0x41#8 ≤ s ∧ s ≤ 0x5A#8 then some ((s - 0x41#8).setWidth 6)
  else if 0x61#8 ≤ s ∧ s ≤ 0x7A#8 then some ((s - 0x61#8 + 26#8).setWidth 6)
  else if 0x30#8 ≤ s ∧ s ≤ 0x39#8 then some ((s - 0x30#8 + 52#8).setWidth 6)
  else if s = c.sym62 then some 62#6
  else if s = c.sym63 then some 63#6
  else none

/-- The four classes of an input byte (R150). -/
inductive ByteClass where
  | skip
  | pad
  | sym (v : SymVal)
  | invalid
deriving DecidableEq, Repr

/-- A skip byte: `b <= 0x20`, unsigned (R150, R13). -/
def isSkip (b : Byte) : Bool := b ≤ 0x20#8

/-- A padding byte: 0x3D always, and `cfg.pad` where it is not 0 (R150, R13). -/
def isPad (c : Cfg) (b : Byte) : Bool := b = 0x3D#8 ∨ (c.pad ≠ 0 ∧ b = c.pad)

/-- `Classify(b)`: SKIP before PAD before SYM (R150). -/
def classify (c : Cfg) (b : Byte) : ByteClass :=
  if isSkip b then .skip
  else if isPad c b then .pad
  else match decodeSymbol c b with
    | some v => .sym v
    | none => .invalid

end Sys2Proof.Machine
end

