-- ==== Sys2Proof/Machine/Decoder.lean ====
section
/-!
DEFINITION. base64_decoder (spec 42_decoder.md): the symbol fetch, group assembly, DEC_READ and DEC_HAS_MORE.
-/

namespace Sys2Proof.Machine

/-! ## Symbol fetch (R151) -/

/-- What a symbol fetch found: R151's three verdicts, or no item there to take (R53). -/
inductive SymVerdict where
  | sym (v : SymVal)
  | eod
  | invalid
  | wait
deriving DecidableEq, Repr

/-- A symbol fetch: its verdict, `dec.exhausted` after it, and the input channel after it. -/
structure SymFetch where
  verdict : SymVerdict
  exhausted : Bool
  inp : List InItem
deriving DecidableEq, Repr

/-- The loop of `NextSymbol()`, entered with `dec.exhausted` = 0 (R151). -/
def takeSymbol (c : Cfg) : List InItem → SymFetch
  | [] => ⟨.wait, false, []⟩
  | .endOfStream :: rest => ⟨.eod, true, rest⟩
  | .byte b :: rest =>
    match classify c b with
    | .skip => takeSymbol c rest
    | .pad => ⟨.eod, true, rest⟩
    | .sym v => ⟨.sym v, false, rest⟩
    | .invalid => ⟨.invalid, false, rest⟩

/-- `NextSymbol()` (R151): end-of-data at once, and no item taken, while `dec.exhausted` is 1. -/
def nextSymbol (c : Cfg) (exhausted : Bool) (inp : List InItem) : SymFetch :=
  if exhausted then ⟨.eod, true, inp⟩ else takeSymbol c inp

/-! ## Group fetch (R152, R153) -/

/-- How a group fetch ends: with symbols (four of them, or fewer at end-of-data), at an invalid byte, or waiting. -/
inductive GroupVerdict where
  | symbols (vs : List SymVal)
  | invalid
  | wait (vs : List SymVal)
deriving DecidableEq, Repr

/-- A group fetch: its verdict, `dec.exhausted` after it, and the input channel after it. -/
structure GroupFetch where
  verdict : GroupVerdict
  exhausted : Bool
  inp : List InItem
deriving DecidableEq, Repr

/-- R153's `while n < 4` loop with `todo` symbols still wanted and `vs` fetched. -/
def fetchGroup (c : Cfg) : Nat → List SymVal → Bool → List InItem → GroupFetch
  | 0, vs, exhausted, inp => ⟨.symbols vs, exhausted, inp⟩
  | todo + 1, vs, exhausted, inp =>
    let f := nextSymbol c exhausted inp
    match f.verdict with
    | .sym v => fetchGroup c todo (vs ++ [v]) f.exhausted f.inp
    | .eod => ⟨.symbols vs, f.exhausted, f.inp⟩
    | .invalid => ⟨.invalid, f.exhausted, f.inp⟩
    | .wait => ⟨.wait vs, f.exhausted, f.inp⟩

/-- `dec.fill` of a group of `n` symbols, `n` at least 1 (R152, R153). -/
def fillOf (n : Nat) : BitVec 2 :=
  if n = 4 then 3 else if n = 3 then 2 else 1

/-- A group of `n` symbols yields no byte: `n` is 0, or 1 under DISCARD (R152, R155). -/
def yieldsNothing (p : SingleSymbolPolicy) (n : Nat) : Bool :=
  n = 0 ∨ (n = 1 ∧ p = .discard)

/-- The end of DEC_READ once the group's symbols are there (R152, R153, R155). -/
def groupResult (vs : List SymVal) (s : State) : State :=
  if yieldsNothing s.policy vs.length then
    respond .eod 0 (s.withDec { s.dec with fill := 0, step := 0 })
  else
    respond .byte ((byte1 (assemble vs)).setWidth 24)
      (s.withDec { s.dec with acc := assemble vs, fill := fillOf vs.length, step := 1 })

/-- The state after a group fetch has taken items (R52, R34). -/
def State.afterFetch (s : State) (f : GroupFetch) : State :=
  (s.withInp f.inp).withDec (s.dec.setExhausted f.exhausted)

/-- DEC_READ from its group fetch on, with `vs` already fetched (R153). -/
def continueRead (vs : List SymVal) (s : State) : State :=
  let f := fetchGroup s.cfg (4 - vs.length) vs s.dec.exhausted s.inp
  match f.verdict with
  | .symbols ws => groupResult ws (s.afterFetch f)
  | .invalid => raise .symbolFault (s.afterFetch f)
  | .wait ws => (s.afterFetch f).withProgress (.fetch ws)

/-- A pending byte is returned from the accumulator and `dec.step` advances (R153). -/
def returnPending (s : State) : State :=
  let b := if s.dec.step = 1 then byte2 s.dec.acc else byte3 s.dec.acc
  respond .byte (b.setWidth 24) (s.withDec { s.dec with step := s.dec.step + 1 })

/-- DEC_READ (R153): the sticky error first, then a pending byte, then a group fetch (R213, R216). -/
def execDecRead (s : State) : Host.Outcome State Fault Refusal :=
  if s.dec.err then .next (respond .errSymbol 0 s)
  else if s.dec.pending then .next (returnPending s)
  else .next (continueRead [] s)

/-! ## DEC_HAS_MORE (R156) -/

/-- DEC_HAS_MORE from its InPeek() on (R156). -/
def continuePeek (s : State) : State :=
  match inPeek s with
  | none => s.withProgress .peek
  | some .endOfStream => respond .ok 0 ((inTake s).withDec (s.dec.setExhausted true))
  | some (.byte _) => respond .ok 1 s

/-- DEC_HAS_MORE (R156). -/
def execDecHasMore (s : State) : Host.Outcome State Fault Refusal :=
  if s.dec.err then .next (respond .errSymbol 0 s)
  else if s.dec.pending then .next (respond .ok 1 s)
  else if s.dec.exhausted then .next (respond .ok 0 s)
  else .next (continuePeek s)

end Sys2Proof.Machine
end

