-- ==== Sys2Proof/Machine/Encoder.lean ====
section
/-!
DEFINITION. base64_encoder (spec 41_encoder.md): ENC_WRITE, ENC_FLUSH, ENC_FINALIZE. An encoder command writes the
encoder registers and then appends its items; no command and no port can show the registers while it waits in between.
DEDUCED (notes/assumptions/3.md).
-/

namespace Sys2Proof.Machine

/-- The four symbols of a complete group, most significant first (R120). -/
def groupSymbols (c : Cfg) (a : Acc) : List OutItem :=
  [.byte (encodeSymbol c (sym1 a)), .byte (encodeSymbol c (sym2 a)),
   .byte (encodeSymbol c (sym3 a)), .byte (encodeSymbol c (sym4 a))]

/-- CR LF, 0x0D 0x0A (R121). -/
def crLf : List OutItem := [.byte 0x0D, .byte 0x0A]

/-- `LineWrap()`: the items it appends and the line count it leaves (R121). -/
def lineWrap (c : Cfg) (linecnt : LineCount) : List OutItem × LineCount :=
  let t := ceil4 c.lineLen
  if t = 0 then ([], linecnt)
  else if t ≤ linecnt + 4 then (crLf, 0)
  else ([], linecnt + 4)

/-- `EmitGroup(a)`: the items it appends and the line count it leaves (R120). -/
def emitGroup (c : Cfg) (a : Acc) (linecnt : LineCount) : List OutItem × LineCount :=
  let wrap := lineWrap c linecnt
  (groupSymbols c a ++ wrap.1, wrap.2)

/-- ENC_WRITE (R122). -/
def execEncWrite (b : Byte) (s : State) : Host.Outcome State Fault Refusal :=
  match s.enc.step with
  | .zero => .next (respond .ok 0 (s.withEnc { s.enc with acc := ofBytes b 0 0, step := .one }))
  | .one => .next (respond .ok 0 (s.withEnc { s.enc with acc := ofBytes (byte1 s.enc.acc) b 0, step := .two }))
  | .two =>
    let group := emitGroup s.cfg (ofBytes (byte1 s.enc.acc) (byte2 s.enc.acc) b) s.enc.linecnt
    .next (emitThenOk group.1 (s.withEnc { acc := 0, step := .zero, linecnt := group.2 }))

/-- ENC_FLUSH (R123). -/
def execEncFlush (s : State) : Host.Outcome State Fault Refusal :=
  .next (emitThenOk [.flush] s)

/-- `n` padding symbols, none where `cfg.pad` is 0 (R124). -/
def padding (c : Cfg) (n : Nat) : List OutItem :=
  if c.pad = 0 then [] else List.replicate n (.byte c.pad)

/-- The trailing partial group: its symbols and its padding (R124). -/
def tailItems (c : Cfg) (e : Enc) : List OutItem :=
  match e.step with
  | .zero => []
  | .one => [.byte (encodeSymbol c (sym1 e.acc)), .byte (encodeSymbol c (sym2 e.acc))] ++ padding c 2
  | .two =>
    [.byte (encodeSymbol c (sym1 e.acc)), .byte (encodeSymbol c (sym2 e.acc)), .byte (encodeSymbol c (sym3 e.acc))]
      ++ padding c 1

/-- ENC_FINALIZE (R124). -/
def execEncFinalize (s : State) : Host.Outcome State Fault Refusal :=
  .next (emitThenOk (tailItems s.cfg s.enc ++ [.endOfStream]) (s.withEnc Enc.reset))

/-- An encoder command that waited in OutEmit() goes on with the items it has left (R55). -/
def resumeEmit (items : List OutItem) (s : State) : State := emitThenOk items s

end Sys2Proof.Machine
end

