-- ==== Sys2Proof/Machine/Dispatch.lean ====
section
/-!
DEFINITION. One arm per command: the meaning it calls.
-/

namespace Sys2Proof.Machine

def exec (i : Instr) (s : State) : Host.Outcome State Fault Refusal :=
  match i with
  | .nop => Sys2Proof.Machine.execNop s
  | .encWrite b => Sys2Proof.Machine.execEncWrite b s
  | .encFlush => Sys2Proof.Machine.execEncFlush s
  | .encFinalize => Sys2Proof.Machine.execEncFinalize s
  | .decRead => Sys2Proof.Machine.execDecRead s
  | .decHasMore => Sys2Proof.Machine.execDecHasMore s
  | .cfgWriteSym62 val => Sys2Proof.Machine.execCfgWriteSym62 val s
  | .cfgWriteSym63 val => Sys2Proof.Machine.execCfgWriteSym63 val s
  | .cfgWritePad val => Sys2Proof.Machine.execCfgWritePad val s
  | .cfgWriteLineLen val => Sys2Proof.Machine.execCfgWriteLineLen val s
  | .cfgReadSym62 => Sys2Proof.Machine.execCfgReadSym62 s
  | .cfgReadSym63 => Sys2Proof.Machine.execCfgReadSym63 s
  | .cfgReadPad => Sys2Proof.Machine.execCfgReadPad s
  | .cfgReadLineLen => Sys2Proof.Machine.execCfgReadLineLen s
  | .cfgReadLineThresh => Sys2Proof.Machine.execCfgReadLineThresh s
  | .cfgReadEncState => Sys2Proof.Machine.execCfgReadEncState s
  | .cfgReadEncAcc => Sys2Proof.Machine.execCfgReadEncAcc s
  | .cfgReadDecState => Sys2Proof.Machine.execCfgReadDecState s
  | .cfgReadDecAcc => Sys2Proof.Machine.execCfgReadDecAcc s
  | .cfgReadId => Sys2Proof.Machine.execCfgReadId s
  | .srst m => Sys2Proof.Machine.execSrst m s

end Sys2Proof.Machine
end

