-- ==== Sys2Proof/Machine/Step.lean ====
section
/-!
DEFINITION. One step of base64_core: a reset edge, or the command in progress goes on, or the next command word is
accepted and runs up to its end or its first wait (spec 20_memory.md R60, R62; 70_reset_and_hazards.md R240, R250). A
core that waits and finds its channel unchanged is left unchanged by a step: "stuck, not faulted" (R53).
-/

namespace Sys2Proof.Machine

/-- A command word that has been accepted runs: a row of R76 has its meaning, any other word raises Illegal (R84, R211). -/
def runWord (w : Word) (s : State) : Host.Outcome State Fault Refusal :=
  match decode w with
  | .ok i => exec i s
  | .error _ => .next (raise .illegal s)

/-- The next command word is accepted, or the idle core waits for one (R241). -/
def acceptCommand (s : State) : Host.Outcome State Fault Refusal :=
  match takeCommand s with
  | some (w, t) => runWord w t
  | none => .next s

/-- One step. Reset comes before everything (R240); a command in progress before any other (R60). -/
def step (s : State) : Host.Outcome State Fault Refusal :=
  if s.rst then .next (resetEdge s)
  else match s.progress with
    | .idle => acceptCommand s
    | .fetch syms => .next (continueRead syms s)
    | .peek => .next (continuePeek s)
    | .emit items => .next (resumeEmit items s)
    | .respond w => .next (sendResponse w s)

/-- `s` with the table word as the next command the host has issued, the core idle and out of reset, so that the very
next step accepts and runs it (notes/assumptions/1.md). -/
def State.withFetchWord (s : State) (nbits w : Nat) : State := issueNext s nbits w

end Sys2Proof.Machine
end

