-- ==== Sys2Proof/Machine/Assembler.lean ====
section
/-!
DEFINITION. The assembler's view of commands (spec 30_encoding.md R85 to R88): the words a line stands for, and the
reading of a line's text. Lexical details R85 does not give are DESIGN CHOICE (notes/assumptions/14.md).
-/

namespace Sys2Proof.Machine

/-! ## The words a line stands for -/

/-- The mask bit a name stands for (R85, R193). -/
def srstBitMask : SrstBit → BitVec 3
  | .enc => 1
  | .dec => 2
  | .cfg => 4

/-- The CFG_WRITE of a register, none for a read-only one (R85, R191). -/
def cfgWriteWords (value : Nat) : Reg → List Word
  | .sym62 => [encode (.cfgWriteSym62 (BitVec.ofNat 8 value))]
  | .sym63 => [encode (.cfgWriteSym63 (BitVec.ofNat 8 value))]
  | .pad => [encode (.cfgWritePad (BitVec.ofNat 8 value))]
  | .lineLen => [encode (.cfgWriteLineLen (BitVec.ofNat 16 value))]
  | .lineThresh | .encState | .encAcc | .decState | .decAcc | .id => []

/-- The command words of a well-formed line in order (R76, R86, R88). An SRST mask is the OR of the blocks named, so a
repeated name adds nothing: DESIGN CHOICE (notes/assumptions/14.md). -/
def lineWords : AsmLine → List Word
  | .nop => [encode .nop]
  | .encWrite byte => [encode (.encWrite (BitVec.ofNat 8 byte))]
  | .encFlush => [encode .encFlush]
  | .encFinalize => [encode .encFinalize]
  | .decRead => [encode .decRead]
  | .decHasMore => [encode .decHasMore]
  | .cfgWrite reg value => cfgWriteWords value reg
  | .cfgRead reg => [encode (cfgReadOf reg)]
  | .srst mask => [encode (.srst (mask.foldl (fun m b => m ||| srstBitMask b) 0))]
  | .word w => [BitVec.ofNat 32 w]
  | .encWriteN bytes => bytes.map fun b => encode (.encWrite (BitVec.ofNat 8 b))
  | .cfgInit sym62 sym63 pad lineLen =>
    cfgWriteWords sym62 .sym62 ++ cfgWriteWords sym63 .sym63 ++ cfgWriteWords pad .pad
      ++ cfgWriteWords lineLen .lineLen

/-- The assembler: it "refuses (at assembly time) a value that does not fit its field" (R85). -/
def assembleLine (l : AsmLine) : Option (List Word) := if l.wellFormed then some (lineWords l) else none

/-! ## The text of a line -/

/-- The tokens of a line. -/
inductive Token where
  | name (cs : List Char)
  | dec (n : Nat)
  | hex (n : Nat)
  | chr (code : Nat)
  | str (codes : List Nat)
  | comma
  | bar
deriving DecidableEq, Repr

/-- Where the lexer stands: between tokens, in a word, in a character literal, in a string. -/
inductive LexMode where
  | gap
  | inWord (cs : List Char)
  | inChr (code : Option Nat)
  | inStr (codes : List Nat)
deriving DecidableEq, Repr

/-- What a character that ends a word begins: tokens of its own and a mode, or the end of the line (`;`). -/
inductive Delim where
  | go (ts : List Token) (m : LexMode)
  | stop
deriving DecidableEq, Repr

def quoteChar : Char := Char.ofNat 39

def doubleQuoteChar : Char := Char.ofNat 34

def delimOf (c : Char) : Option Delim :=
  if c = ' ' ∨ c = Char.ofNat 9 then some (.go [] .gap)
  else if c = ',' then some (.go [.comma] .gap)
  else if c = '|' then some (.go [.bar] .gap)
  else if c = quoteChar then some (.go [] (.inChr none))
  else if c = doubleQuoteChar then some (.go [] (.inStr []))
  else if c = ';' then some .stop
  else none

/-- The value of a digit in base 16. -/
def hexDigit (c : Char) : Option Nat :=
  if '0' ≤ c ∧ c ≤ '9' then some (c.toNat - 48)
  else if 'A' ≤ c ∧ c ≤ 'F' then some (c.toNat - 55)
  else if 'a' ≤ c ∧ c ≤ 'f' then some (c.toNat - 87)
  else none

/-- A run of digits in a base, the value so far being `acc`; leading zeros are accepted, DESIGN CHOICE
(notes/assumptions/14.md). -/
def digits (base : Nat) : Nat → List Char → Option Nat
  | acc, [] => some acc
  | acc, c :: cs =>
    match hexDigit c with
    | some d => if d < base then digits base (acc * base + d) cs else none
    | none => none

/-- A word is a number in decimal or `0x` form where it begins with a digit, else a name (R85). -/
def wordToken (cs : List Char) : Option Token :=
  match cs with
  | '0' :: 'x' :: d :: ds => (digits 16 0 (d :: ds)).map .hex
  | c :: _ => if '0' ≤ c ∧ c ≤ '9' then (digits 10 0 cs).map .dec else some (.name cs)
  | [] => none

/-- The tokens of a line's text; none where a literal is not closed or a number is no number. Inside a string or a
character literal there is no escape: a backslash is an ordinary byte, the next double quote ends the string, and `;` is a
character and starts no comment, and a quote, a comma, a bar or a semicolon ends a word with no blank before it. R85 and
R86 leave all of this open: DESIGN CHOICE (notes/assumptions/14.md). -/
def lex : LexMode → List Char → Option (List Token)
  | .gap, [] => some []
  | .inWord cs, [] => (wordToken cs).map fun t => [t]
  | .inChr _, [] => none
  | .inStr _, [] => none
  | .gap, c :: rest =>
    match delimOf c with
    | some (.go ts m) => (lex m rest).map (ts ++ ·)
    | some .stop => some []
    | none => lex (.inWord [c]) rest
  | .inWord cs, c :: rest =>
    match wordToken cs, delimOf c with
    | some t, some (.go ts m) => (lex m rest).map (t :: ts ++ ·)
    | some t, some .stop => some [t]
    | none, some _ => none
    | _, none => lex (.inWord (cs ++ [c])) rest
  | .inChr none, c :: rest => lex (.inChr (some c.toNat)) rest
  | .inChr (some code), c :: rest =>
    if c = quoteChar then (lex .gap rest).map (.chr code :: ·) else none
  | .inStr codes, c :: rest =>
    if c = doubleQuoteChar then (lex .gap rest).map (.str codes :: ·) else lex (.inStr (codes ++ [c.toNat])) rest

/-- A `<byte>` or `<value>`: decimal, `0xNN`, or a character. -/
def numberOf : Token → Option Nat
  | .dec n | .hex n | .chr n => some n
  | .name _ | .str _ | .comma | .bar => none

/-- The register a name stands for (R80, R85), upper case only. -/
def regOfName (cs : List Char) : Option Reg :=
  match String.ofList cs with
  | "SYM62" => some .sym62
  | "SYM63" => some .sym63
  | "PAD" => some .pad
  | "LINE_LEN" => some .lineLen
  | "LINE_THRESH" => some .lineThresh
  | "ENC_STATE" => some .encState
  | "ENC_ACC" => some .encAcc
  | "DEC_STATE" => some .decState
  | "DEC_ACC" => some .decAcc
  | "ID" => some .id
  | _ => none

/-- The block a name in an SRST mask stands for (R85). -/
def srstBitOfName (cs : List Char) : Option SrstBit :=
  match String.ofList cs with
  | "ENC" => some .enc
  | "DEC" => some .dec
  | "CFG" => some .cfg
  | _ => none

/-- One or more names joined by `|`, in any order. A block named twice is accepted and counts once, which R85 leaves open:
DESIGN CHOICE (notes/assumptions/14.md). -/
def maskOf : List Token → Option (List SrstBit)
  | [.name cs] => (srstBitOfName cs).map fun b => [b]
  | .name cs :: .bar :: rest =>
    match srstBitOfName cs, maskOf rest with
    | some b, some bs => some (b :: bs)
    | _, _ => none
  | _ => none

/-- One or more numbers joined by `,`. -/
def numbersOf : List Token → Option (List Nat)
  | [t] => (numberOf t).map fun n => [n]
  | t :: .comma :: rest =>
    match numberOf t, numbersOf rest with
    | some n, some ns => some (n :: ns)
    | _, _ => none
  | _ => none

/-- The line a mnemonic and its operand tokens stand for (R85, R86, R88). -/
def lineOf (mnemonic : List Char) (args : List Token) : Option AsmLine :=
  match String.ofList mnemonic, args with
  | "NOP", [] => some .nop
  | "ENC_WRITE", [t] => (numberOf t).map .encWrite
  | "ENC_FLUSH", [] => some .encFlush
  | "ENC_FINALIZE", [] => some .encFinalize
  | "DEC_READ", [] => some .decRead
  | "DEC_HAS_MORE", [] => some .decHasMore
  | "CFG_WRITE", [.name cs, .comma, t] =>
    match regOfName cs, numberOf t with
    | some r, some n => some (.cfgWrite r n)
    | _, _ => none
  | "CFG_READ", [.name cs] => (regOfName cs).map .cfgRead
  | "SRST", [.dec 0] => some (.srst [])
  | "SRST", ts => (maskOf ts).map .srst
  | ".word", [.hex n] => some (.word n)
  | "ENC_WRITEN", [] => some (.encWriteN [])
  | "ENC_WRITEN", [.str codes] => some (.encWriteN codes)
  | "ENC_WRITEN", ts => (numbersOf ts).map .encWriteN
  | "CFG_INIT", ts =>
    match numbersOf ts with
    | some [a, b, c, d] => some (.cfgInit a b c d)
    | _ => none
  | _, _ => none

/-- The command words a line of assembler text stands for; none where the assembler refuses it, and no word for a line
that holds a comment or nothing (R85). The text is ONE line without its terminator, which R85 does not name: CR and LF are
characters like any other, and a comment takes all the text that follows. DESIGN CHOICE (notes/assumptions/14.md). -/
def assembleText (text : String) : Option (List Word) :=
  match lex .gap text.toList with
  | some [] => some []
  | some (.name mnemonic :: args) =>
    match lineOf mnemonic args with
    | some l => assembleLine l
    | none => none
  | _ => none

/-- The command words of a command sequence, "one command per line", in order; none where a line is refused (R85). -/
def assembleLines : List String → Option (List Word)
  | [] => some []
  | line :: lines =>
    match assembleText line, assembleLines lines with
    | some ws, some rest => some (ws ++ rest)
    | _, _ => none

end Sys2Proof.Machine
end

