-- ==== Sys2Proof/Machine/Ports.lean ====
section
/-!
DEFINITION. The ports of the core (spec 20_memory.md R66) as functions of the state between two steps, and what the
environment can do to the machine between two steps: it is the other end of each channel (R51, R53, R55, R62, R240).
-/

namespace Sys2Proof.Machine

/-! ## Levels the core drives (R66, R240) -/

/-- `cmd_ready`: the core is idle and not in reset. R66 says "only when"; that it is then 1 is a DESIGN CHOICE
(notes/assumptions/15.md). -/
def cmdReady (s : State) : Bool := !s.rst && s.progress == .idle

/-- `rsp_valid` and `rsp_data`: the response word the core holds out, none where `rsp_valid` is 0. -/
def rspPort (s : State) : Option Word :=
  if s.rst then none
  else match s.progress with
    | .respond w => some w
    | .idle | .fetch _ | .peek | .emit _ => none

/-- `in_ready`: a command is inside InTake(); an InPeek() does not raise it. R66 says "only while"; that it is then 1 is
a DESIGN CHOICE (notes/assumptions/15.md). -/
def inReady (s : State) : Bool :=
  !s.rst && match s.progress with
    | .fetch _ => true
    | .idle | .peek | .emit _ | .respond _ => false

/-- The item the core holds out on the output channel, none where `out_valid` is 0. -/
def outPort (s : State) : Option OutItem :=
  if s.rst then none
  else match s.progress with
    | .emit items => items.head?
    | .idle | .fetch _ | .peek | .respond _ => none

/-- `out_kind` of an item: 0 BYTE, 1 FLUSH, 2 END; "3: never driven". -/
def OutItem.kind : OutItem → BitVec 2
  | .byte _ => 0
  | .flush => 1
  | .endOfStream => 2

/-- `out_data` of an item: the byte, "0 when `out_kind` is not 0". -/
def OutItem.data : OutItem → Byte
  | .byte b => b
  | .flush | .endOfStream => 0

/-- The item the input pins carry: `in_data` is "ignored when `in_end = 1`". -/
def inItemOfPins (inEnd : Bool) (inData : Byte) : InItem := if inEnd then .endOfStream else .byte inData

/-! ## What the environment does -/

/-- The host issues a command word; it is accepted after those issued before it (R62). -/
def issue (w : Word) (s : State) : State := { s with cmds := s.cmds ++ [w] }

/-- The adapter delivers input items, after those delivered before them (R51, R52). -/
def deliver (items : List InItem) (s : State) : State := s.withInp (s.inp ++ items)

/-- The adapter changes how many output items it accepts (R55). -/
def setOutReady (r : Ready) (s : State) : State := { s with outReady := r }

/-- The host changes how many responses it takes (R246). -/
def setRspReady (r : Ready) (s : State) : State := { s with rspReady := r }

/-- `rst` is raised for the next rising edge (R240). -/
def raiseReset (s : State) : State := { s with rst := true }

end Sys2Proof.Machine
end

