-- ==== Sys2Proof/Machine/HostLoop.lean ====
section
/-!
DEFINITION. The host's side of the bulk operations (spec 30_encoding.md R86, R87; 42_decoder.md R157;
70_reset_and_hazards.md R249): one command per byte, the next one issued when the response to the last is there.
-/

namespace Sys2Proof.Machine

/-- What the host has of a command it issued to an idle core: the response and the state after it, or a core that waits. -/
inductive HostAnswer where
  | answered (r : Word) (s : State)
  | waiting (s : State)
deriving DecidableEq, Repr

/-- The host issues one command word and the core makes one step. The host of R86 and R87 calls this on an idle core
with no other command issued; it has its response when the core is idle again with one more response. -/
def hostCall (w : Word) (s : State) : HostAnswer :=
  match step (issue w s) with
  | .next t =>
    match t.rsp.drop s.rsp.length with
    | [r] => if t.progress = .idle then .answered r t else .waiting t
    | _ => .waiting t
  | .fault _ => .waiting s
  | .refused _ => .waiting s

/-- The host issues commands one after the other, each when the response to the one before is there; none where the core
waits in one of them. -/
def hostRun : List Instr → State → Option State
  | [], s => some s
  | i :: is, s =>
    match hostCall (encode i) s with
    | .answered _ t => hostRun is t
    | .waiting _ => none

/-- `ENC_WRITEN b1, …, bn`: ENC_WRITE of each byte in order (R86). -/
def encWriteN (bs : List Byte) (s : State) : Option State := hostRun (bs.map .encWrite) s

/-- ENC_WRITEN of the bytes, then ENC_FINALIZE: one encode stream (R243). -/
def encStream (bs : List Byte) (s : State) : Option State := hostRun (bs.map .encWrite ++ [.encFinalize]) s

/-- Why DEC_READN stopped. -/
inductive ReadStop where
  /-- `count = n`. -/
  | full
  /-- A response whose code is not BYTE. -/
  | code (rc : BitVec 4)
  /-- The core waits for input; the host has no response yet. -/
  | waiting
deriving DecidableEq, Repr

/-- The result of DEC_READN: the stored bytes (their number is `count`), why it stopped, and the state then. -/
structure ReadResult where
  bytes : List Byte
  stop : ReadStop
  state : State
deriving DecidableEq, Repr

/-- `DEC_READN n` (R87). -/
def decReadN : Nat → State → ReadResult
  | 0, s => ⟨[], .full, s⟩
  | n + 1, s =>
    match hostCall (encode .decRead) s with
    | .answered r t =>
      if responseCode r = ResultCode.bits .byte then
        let more := decReadN n t
        ⟨responseByte r :: more.bytes, more.stop, more.state⟩
      else ⟨[], .code (responseCode r), t⟩
    | .waiting t => ⟨[], .waiting, t⟩

end Sys2Proof.Machine
end

