-- ==== Sys2Proof/Safety.lean ====
section
/-!
DEFINITION. What claims about base64_core are stated in: the invariants of its registers (spec 10_state.md R30, R36),
a core ready for a command, the conditions of the round-trip law (70_reset_and_hazards.md R248), and the safe run of
60_exceptions.md R212: no symbol fault.
-/

namespace Sys2Proof.Machine

/-! ## Invariants -/

/-- R30, `enc.step` being 0, 1 or 2 by its type. -/
def Enc.inv (e : Enc) : Bool :=
  (match e.step with
    | .zero => e.acc == 0
    | .one => e.acc.extractLsb' 0 16 == 0
    | .two => e.acc.extractLsb' 0 8 == 0)
  && e.linecnt.toNat % 4 == 0 && e.linecnt.toNat ≤ 65532

/-- R36. -/
def Dec.inv (d : Dec) : Bool :=
  ((d.fill == 0 && d.step == 0) || (1 ≤ d.step.toNat && d.step.toNat ≤ d.fill.toNat))
  && (!d.err || (d.fill == 0 && d.step == 0))

/-- The decoder is where DEC_READ or DEC_HAS_MORE looks at the input channel: no error, nothing pending, not exhausted
(R153, R156). -/
def Dec.wantsInput (d : Dec) : Bool := !d.err && !d.pending && !d.exhausted

/-- A response word of the form of R74 with a result code of R75: the reserved bits [27:24] are 0 (R81). -/
def legalResponse (w : Word) : Bool :=
  w.extractLsb' 24 4 == 0 &&
  (responseCode w == 0 || responseCode w == 1 || responseCode w == 2 || responseCode w == 8 || responseCode w == 9)

/-- What a command in progress can be: a DEC_READ that waits holds at most three symbols, and it and a waiting
DEC_HAS_MORE stand where input is wanted (R151, R153, R156); an encoder command has from 1 to 6 items left (R7, R55);
a response that waits is one of R74 and R75. -/
def State.progressInv (s : State) : Bool :=
  match s.progress with
  | .idle => true
  | .fetch syms => decide (syms.length ≤ 3) && s.dec.wantsInput
  | .peek => s.dec.wantsInput
  | .emit items => decide (1 ≤ items.length) && decide (items.length ≤ Config.maxEmit)
  | .respond w => legalResponse w

/-- The invariant of the machine: R30, R36, and a command in progress that can be one. -/
def State.inv (s : State) : Bool := s.enc.inv && s.dec.inv && s.progressInv

/-! ## A core ready for a command -/

/-- Idle, out of reset, and every other command already answered: the state in which the host of R86 and R87 issues its
next command, with an environment that makes no command wait for output or response. -/
def State.calm (s : State) : Prop :=
  s.progress = .idle ∧ s.rst = false ∧ s.cmds = [] ∧ s.outReady = .always ∧ s.rspReady = .always

/-- The state once a command's response `w` has transferred (R74, R250). -/
def State.answered (s : State) (w : Word) : State :=
  { s with rsp := s.rsp ++ [w], rspReady := s.rspReady.spend 1, progress := .idle }

/-- The state once `items` have been appended to the output channel (R55). -/
def State.emitted (s : State) (items : List OutItem) : State :=
  { s with out := s.out ++ items, outReady := s.outReady.spend items.length }

/-- The core is idle and out of reset, and `w` is the next command word, followed by `rest`. -/
def State.accepting (s : State) (w : Word) (rest : List Word) : Prop :=
  s.rst = false ∧ s.progress = .idle ∧ s.cmds = w :: rest

/-- The word raises Illegal: its only effect is the response ERR_ILLEGAL with DATA 0, and a response that is not taken
waits (R211, R246). -/
def raisesIllegal (w : Word) : Prop :=
  ∀ s rest, s.accepting w rest →
    (s.rspReady.accepts 1 = true → step s = .next (State.answered { s with cmds := rest } 0x80000000#32)) ∧
    (s.rspReady.accepts 1 = false → step s = .next { s with cmds := rest, progress := .respond 0x80000000#32 })

/-- Every word with this opcode that breaks its field constraints raises Illegal (R77). -/
def malformedRaisesIllegal (op : BitVec 4) : Prop :=
  ∀ w, opField w = op → wordWellFormed w = false → raisesIllegal w

/-! ## Streams -/

/-- The condition of the inverse law: symbols 62 and 63 are distinct from each other and from the 62 fixed symbols (R106). -/
def Cfg.distinctSymbols (c : Cfg) : Prop :=
  c.sym62 ≠ c.sym63 ∧ ∀ v : SymVal, v < 62#6 → encodeSymbol c v ≠ c.sym62 ∧ encodeSymbol c v ≠ c.sym63

/-- The conditions of the round-trip law (R248). -/
def Cfg.roundTrips (c : Cfg) : Prop :=
  c.distinctSymbols ∧
  0x20#8 < c.sym62 ∧ 0x20#8 < c.sym63 ∧ c.sym62 ≠ 0x3D#8 ∧ c.sym63 ≠ 0x3D#8 ∧ c.sym62 ≠ c.pad ∧ c.sym63 ≠ c.pad ∧
  (c.pad = 0 ∨ ∀ v : SymVal, encodeSymbol c v ≠ c.pad)

/-- The bytes as input items (R51). -/
def inBytes (bs : List Byte) : List InItem := bs.map .byte

/-- The bytes as output items (R54). -/
def outBytes (bs : List Byte) : List OutItem := bs.map .byte

/-- The bytes the decoder does not ignore (R13, R150). -/
def withoutSkips (bs : List Byte) : List Byte := bs.filter fun b => !isSkip b

/-- The line threshold T as a number (R26). -/
def Cfg.threshold (c : Cfg) : Nat := (c.lineLen.toNat + 3) / 4 * 4

/-- The line break after the `k`-th complete group of a stream: there "exactly when 4k is a multiple of T" (R127). -/
def breakAfter (c : Cfg) (k : Nat) : List OutItem :=
  if c.threshold ≠ 0 ∧ 4 * k % c.threshold = 0 then [.byte 0x0D, .byte 0x0A] else []

/-- The symbol of a value, as an output item. -/
def symItem (c : Cfg) (v : SymVal) : OutItem := .byte (encodeSymbol c v)

/-- `n` padding symbols, none where padding is disabled (R126). -/
def padItems (c : Cfg) (n : Nat) : List OutItem := if c.pad = 0 then [] else List.replicate n (.byte c.pad)

/-- The wire format of a byte sequence whose first group is the stream's `k + 1`-th, written from the bits of the bytes
alone (R125 to R127): 4 symbols for 3 bytes and a break where one is due; then the tail and its padding. -/
def wire (c : Cfg) (k : Nat) : List Byte → List OutItem
  | b1 :: b2 :: b3 :: rest =>
    [symItem c (b1.extractLsb' 2 6), symItem c (b1.extractLsb' 0 2 ++ b2.extractLsb' 4 4),
     symItem c (b2.extractLsb' 0 4 ++ b3.extractLsb' 6 2), symItem c (b3.extractLsb' 0 6)]
      ++ breakAfter c (k + 1) ++ wire c (k + 1) rest
  | [b1, b2] =>
    [symItem c (b1.extractLsb' 2 6), symItem c (b1.extractLsb' 0 2 ++ b2.extractLsb' 4 4),
     symItem c (b2.extractLsb' 0 4 ++ 0#2)] ++ padItems c 1
  | [b1] => [symItem c (b1.extractLsb' 2 6), symItem c (b1.extractLsb' 0 2 ++ 0#4)] ++ padItems c 2
  | [] => []

/-- An output item is a `BYTE` (R54). -/
def OutItem.isByte : OutItem → Bool
  | .byte _ => true
  | .flush | .endOfStream => false

/-! ## Input as DEC_READ meets it -/

/-- Symbols as they stand in the input: each a byte with the skip bytes before it and the value it stands for. -/
abbrev SymRun := List (List Byte × Byte × SymVal)

/-- The items of the run, in order. -/
def SymRun.items (g : SymRun) : List InItem := List.flatMap (fun x => inBytes x.1 ++ [.byte x.2.1]) g

/-- The values of the run, in order. -/
def SymRun.values (g : SymRun) : List SymVal := List.map (fun x => x.2.2) g

/-- Only skip bytes stand between the symbols, and each byte is the symbol of its value (R150). -/
def SymRun.valid (c : Cfg) (g : SymRun) : Prop :=
  ∀ x ∈ g, (∀ b ∈ x.1, b ≤ 0x20#8) ∧ classify c x.2.1 = .sym x.2.2

/-- The item ends the data: END or a padding byte (R13, R151). -/
def endsData (c : Cfg) (it : InItem) : Prop := it = .endOfStream ∨ ∃ b, it = .byte b ∧ classify c b = .pad

/-- A run without a symbol fault: no response so far has the code ERR_SYMBOL (93_implementation_defined.md U3). -/
def State.noSymbolFault (s : State) : Prop := ∀ w ∈ s.rsp, responseCode w ≠ ResultCode.bits .errSymbol

end Sys2Proof.Machine
end

