-- ==== Sys2Proof/Certificates/Slice0/Obligations.lean ====
section
/-!
DEFINITION. The statements about base64_core for the provers. Every register result is an equation of whole states, so
it is the command's frame as well. `s.answered w` is the state once the response word `w` has transferred,
`s.emitted items` the state once the items have been appended (Safety.lean).
-/

open Sys2Proof Sys2Proof.Machine

/-! ## Commands reach the machine -/

/-- The next command word runs as the command it decodes to (R60, R62). -/
def Obligations.StepRunsDecodedCommand : Prop :=
  ∀ (s : State) (w : Word) (rest : List Word) (i : Instr), s.accepting w rest → decode w = .ok i →
    step s = exec i { s with cmds := rest }

/-- A command in progress holds the command port: no command is accepted until it is complete (R60, R246). -/
def Obligations.BusyCoreTakesNoCommand : Prop :=
  ∀ s t : State, s.progress ≠ .idle → step s = .next t → t.cmds = s.cmds

/-- There is no trap: every command of every state and every step answers a next state (R210). For a waiting core that is
the model's form of "no step" (R53): a next state equal to the state (log entry 2). The clause on exec speaks of busy states
too, in which step never calls exec (log entry 13). -/
def Obligations.EveryCommandAnswersNext : Prop :=
  (∀ (i : Instr) (s : State), ∃ t, exec i s = .next t) ∧ ∀ s : State, ∃ t, step s = .next t

/-- Each command has exactly one response, in order; items are taken and appended in order (R52, R54, R62). -/
def Obligations.EachCommandHasOneResponse : Prop :=
  ∀ s t : State, s.rst = false → step s = .next t →
    s.rsp <+: t.rsp ∧ s.out <+: t.out ∧ t.inp <:+ s.inp ∧ t.cmds <:+ s.cmds ∧
    t.rsp.length + t.cmds.length + (if t.progress = .idle then 0 else 1) =
      s.rsp.length + s.cmds.length + (if s.progress = .idle then 0 else 1)

/-! ## Encoding -/

/-- Words written out from the spec's encodings decode to the commands they stand for (R76, R88). -/
def Obligations.WrittenOutWordsDecode : Prop :=
  decode 0x00000000#32 = .ok .nop ∧ decode 0x1000004D#32 = .ok (.encWrite 0x4D) ∧
  decode 0x20000000#32 = .ok .encFlush ∧ decode 0x30000000#32 = .ok .encFinalize ∧
  decode 0x40000000#32 = .ok .decRead ∧ decode 0x50000000#32 = .ok .decHasMore ∧
  decode 0x6200002E#32 = .ok (.cfgWritePad 0x2E) ∧ decode 0x6300FFFF#32 = .ok (.cfgWriteLineLen 0xFFFF) ∧
  decode 0x77000000#32 = .ok .cfgReadDecState ∧ decode 0x79000000#32 = .ok .cfgReadId ∧
  decode 0x80000007#32 = .ok (.srst 7)

/-- Decoding the word of a command gives the command back, every operand at every value (R73, R76). -/
def Obligations.DecodeOfEncodeIsSame : Prop := ∀ i : Instr, decode (encode i) = .ok i

/-- A word that decodes is the word of its command: no bit of it is ignored (R81). -/
def Obligations.EncodeOfDecodedWordIsSame : Prop := ∀ (w : Word) (i : Instr), decode w = .ok i → encode i = w

/-- The words that decode are those that keep the field constraints (R77); any other raises Illegal (R211). -/
def Obligations.MalformedWordRaisesIllegal : Prop :=
  ∀ w : Word, ((∃ i, decode w = .ok i) ↔ wordWellFormed w = true) ∧ (wordWellFormed w = false → raisesIllegal w)

/-- Every word is exactly one row of the opcode map, its command's, or raises Illegal (R84). -/
def Obligations.WordIsOneRowOrIllegal : Prop :=
  ∀ w : Word,
    match decode w with
    | .ok i => ∃ r ∈ opcodeMap, r.covers w = true ∧ r.mnemonic = mnemonicOf i ∧
        ∀ q ∈ opcodeMap, q.covers w = true → q = r
    | .error _ => (∀ r ∈ opcodeMap, r.covers w = false) ∧ raisesIllegal w

/-- Opcodes 0x9 to 0xF raise Illegal, whatever the other bits (R78). -/
def Obligations.ReservedOpcodeRaisesIllegal : Prop := ∀ w : Word, 9 ≤ (opField w).toNat → raisesIllegal w

/-- Reserved indices, and for CFG_WRITE the read-only ones, raise Illegal (R79). -/
def Obligations.ReservedIndexRaisesIllegal : Prop :=
  ∀ w : Word,
    (opField w = 6#4 → 4 ≤ (idxField w).toNat → raisesIllegal w) ∧
    (opField w = 7#4 → 10 ≤ (idxField w).toNat → raisesIllegal w)

/-- Every response a step transfers or holds out has a code of R75 and its reserved bits 0 (R75, R81). -/
def Obligations.ResponsesAreLegalWords : Prop :=
  ∀ s t : State, s.inv = true → (∀ w ∈ s.rsp, legalResponse w = true) → step s = .next t →
    (∀ w ∈ t.rsp, legalResponse w = true) ∧ ∀ w, t.progress = .respond w → legalResponse w = true

/-! ## Control commands -/

/-- NOP answers OK 0 and does nothing else (R190). -/
def Obligations.NopOnlyAnswersOk : Prop :=
  encode .nop = 0x00000000#32 ∧ malformedRaisesIllegal 0#4 ∧
  ∀ s : State, s.rspReady.accepts 1 = true → exec .nop s = .next (s.answered 0x00000000#32)

/-- CFG_WRITE writes the register its index names, with any value, and nothing else (R191). -/
def Obligations.CfgWriteStoresValue : Prop :=
  malformedRaisesIllegal 6#4 ∧
  (∀ v : Byte, encode (.cfgWriteSym62 v) = 0x600000#24 ++ v ∧ encode (.cfgWriteSym63 v) = 0x610000#24 ++ v ∧
    encode (.cfgWritePad v) = 0x620000#24 ++ v) ∧
  (∀ v : LineLen, encode (.cfgWriteLineLen v) = 0x6300#16 ++ v) ∧
  ∀ s : State, s.rspReady.accepts 1 = true →
    (∀ v, exec (.cfgWriteSym62 v) s = .next (State.answered { s with cfg := { s.cfg with sym62 := v } } 0#32)) ∧
    (∀ v, exec (.cfgWriteSym63 v) s = .next (State.answered { s with cfg := { s.cfg with sym63 := v } } 0#32)) ∧
    (∀ v, exec (.cfgWritePad v) s = .next (State.answered { s with cfg := { s.cfg with pad := v } } 0#32)) ∧
    (∀ v, exec (.cfgWriteLineLen v) s = .next (State.answered { s with cfg := { s.cfg with lineLen := v } } 0#32))

/-- CFG_READ answers OK with the register, zero-extended, and changes nothing, in every state (R192). -/
def Obligations.CfgReadAnswersRegister : Prop :=
  malformedRaisesIllegal 7#4 ∧
  [Instr.cfgReadSym62, .cfgReadSym63, .cfgReadPad, .cfgReadLineLen, .cfgReadLineThresh, .cfgReadEncState,
    .cfgReadEncAcc, .cfgReadDecState, .cfgReadDecAcc, .cfgReadId].map encode =
    [0x70000000#32, 0x71000000#32, 0x72000000#32, 0x73000000#32, 0x74000000#32, 0x75000000#32, 0x76000000#32,
      0x77000000#32, 0x78000000#32, 0x79000000#32] ∧
  ∀ s : State, s.rspReady.accepts 1 = true →
    exec .cfgReadSym62 s = .next (s.answered (s.cfg.sym62.setWidth 32)) ∧
    exec .cfgReadSym63 s = .next (s.answered (s.cfg.sym63.setWidth 32)) ∧
    exec .cfgReadPad s = .next (s.answered (s.cfg.pad.setWidth 32)) ∧
    exec .cfgReadLineLen s = .next (s.answered (s.cfg.lineLen.setWidth 32)) ∧
    exec .cfgReadLineThresh s = .next (s.answered (BitVec.ofNat 32 ((s.cfg.lineLen.toNat + 3) / 4 * 4))) ∧
    exec .cfgReadEncState s = .next (s.answered ((s.enc.linecnt ++ s.enc.step.bits).setWidth 32)) ∧
    exec .cfgReadEncAcc s = .next (s.answered (s.enc.acc.setWidth 32)) ∧
    exec .cfgReadDecState s = .next (s.answered
      ((BitVec.ofBool s.dec.err ++ BitVec.ofBool s.dec.exhausted ++ s.dec.step ++ s.dec.fill).setWidth 32)) ∧
    exec .cfgReadDecAcc s = .next (s.answered (s.dec.acc.setWidth 32)) ∧
    exec .cfgReadId s = .next (s.answered 0x000B6407#32)

/-- SRST sets each selected block to its reset values and nothing else (R193). -/
def Obligations.SrstResetsSelectedBlocks : Prop :=
  malformedRaisesIllegal 8#4 ∧ (∀ m : BitVec 3, encode (.srst m) = 0x10000000#29 ++ m) ∧
  ∀ (m : BitVec 3) (s : State), s.rspReady.accepts 1 = true →
    ∃ t : State, exec (.srst m) s = .next (t.answered 0#32) ∧
      t = { s with enc := t.enc, dec := t.dec, cfg := t.cfg } ∧
      t.enc = (if m.getLsbD 0 then { acc := 0, step := .zero, linecnt := 0 } else s.enc) ∧
      t.dec = (if m.getLsbD 1 then { acc := 0, fill := 0, step := 0, exhausted := false, err := false } else s.dec) ∧
      t.cfg = (if m.getLsbD 2 then { sym62 := 0x2B, sym63 := 0x2F, pad := 0x3D, lineLen := 0 } else s.cfg)

/-- A step changes the configuration only by CFG_WRITE, by SRST with the configuration bit, or by reset (R61, R194). -/
def Obligations.ConfigurationChangesOnlyByCommand : Prop :=
  ∀ s t : State, step s = .next t → t.cfg ≠ s.cfg →
    s.rst = true ∨ ∃ w rest i, s.accepting w rest ∧ decode w = .ok i ∧
      ((∃ v, i = .cfgWriteSym62 v ∨ i = .cfgWriteSym63 v ∨ i = .cfgWritePad v) ∨ (∃ v, i = .cfgWriteLineLen v) ∨
        ∃ m, i = .srst m ∧ m.getLsbD 2 = true)

/-! ## Alphabet -/

/-- encodeSymbol on every value: the fixed letters and digits, and the two configurable symbols (R100). -/
def Obligations.EncodeSymbolFollowsRanges : Prop :=
  ∀ (c : Cfg) (v : SymVal),
    (v.toNat ≤ 25 → (encodeSymbol c v).toNat = 0x41 + v.toNat) ∧
    (26 ≤ v.toNat → v.toNat ≤ 51 → (encodeSymbol c v).toNat = 0x61 + (v.toNat - 26)) ∧
    (52 ≤ v.toNat → v.toNat ≤ 61 → (encodeSymbol c v).toNat = 0x30 + (v.toNat - 52)) ∧
    (v.toNat = 62 → encodeSymbol c v = c.sym62) ∧ (v.toNat = 63 → encodeSymbol c v = c.sym63)

/-- decodeSymbol on every byte: a fixed range wins over symbol 62, and that over symbol 63 (R103). -/
def Obligations.DecodeSymbolFollowsRanges : Prop :=
  ∀ (c : Cfg) (b : Byte),
    (0x41 ≤ b.toNat → b.toNat ≤ 0x5A → decodeSymbol c b = some (BitVec.ofNat 6 (b.toNat - 0x41))) ∧
    (0x61 ≤ b.toNat → b.toNat ≤ 0x7A → decodeSymbol c b = some (BitVec.ofNat 6 (b.toNat - 0x61 + 26))) ∧
    (0x30 ≤ b.toNat → b.toNat ≤ 0x39 → decodeSymbol c b = some (BitVec.ofNat 6 (b.toNat - 0x30 + 52))) ∧
    ((∀ v : SymVal, v.toNat < 62 → encodeSymbol c v ≠ b) →
      (b = c.sym62 → decodeSymbol c b = some 62#6) ∧
      (b ≠ c.sym62 → b = c.sym63 → decodeSymbol c b = some 63#6) ∧
      (b ≠ c.sym62 → b ≠ c.sym63 → decodeSymbol c b = none))

/-- The inverse law holds exactly for distinct symbols, and what the decoder needs to reach the lookup (R106). -/
def Obligations.InverseLawNeedsDistinctSymbols : Prop :=
  ∀ c : Cfg,
    ((∀ v : SymVal, decodeSymbol c (encodeSymbol c v) = some v) ↔ c.distinctSymbols) ∧
    (c.distinctSymbols →
      ((classify c c.sym62 = .sym 62#6 ∧ classify c c.sym63 = .sym 63#6) ↔
        (0x20#8 < c.sym62 ∧ c.sym62 ≠ 0x3D#8 ∧ c.sym62 ≠ c.pad ∧
          0x20#8 < c.sym63 ∧ c.sym63 ≠ 0x3D#8 ∧ c.sym63 ≠ c.pad)))

/-- The decoder reads every symbol the encoder can emit back as its value exactly under the conditions of R248. -/
def Obligations.SymbolsSurviveExactlyUnderRoundTripConditions : Prop :=
  ∀ c : Cfg, (∀ v : SymVal, classify c (encodeSymbol c v) = .sym v) ↔ c.roundTrips

/-- Classify: skip bytes first, then '=' and the configured padding byte, then symbols (R150). -/
def Obligations.ClassifyTestsInOrder : Prop :=
  ∀ (c : Cfg) (b : Byte),
    (b.toNat ≤ 0x20 → classify c b = .skip) ∧
    (0x20 < b.toNat →
      (b = 0x3D#8 → classify c b = .pad) ∧ (c.pad ≠ 0 → b = c.pad → classify c b = .pad) ∧
      (b ≠ 0x3D#8 → (c.pad = 0 ∨ b ≠ c.pad) →
        (∀ v, decodeSymbol c b = some v → classify c b = .sym v) ∧
        (decodeSymbol c b = none → classify c b = .invalid)))

/-! ## Encoder -/

/-- ENC_WRITE with an empty or a one-byte group places the byte and emits nothing (R122, steps 0 and 1). -/
def Obligations.EncWriteFillsGroup : Prop :=
  (∀ b : Byte, encode (.encWrite b) = 0x100000#24 ++ b) ∧ malformedRaisesIllegal 1#4 ∧
  ∀ (b : Byte) (s : State), s.rspReady.accepts 1 = true →
    (s.enc.step = .zero → exec (.encWrite b) s =
      .next (State.answered { s with enc := { acc := b ++ 0#16, step := .one, linecnt := s.enc.linecnt } } 0#32)) ∧
    (s.enc.step = .one → exec (.encWrite b) s =
      .next (State.answered
        { s with enc := { acc := s.enc.acc.extractLsb' 16 8 ++ b ++ 0#8, step := .two, linecnt := s.enc.linecnt } } 0#32))

/-- The third ENC_WRITE of a group emits its four symbols, most significant first, and CR LF where the line count
reaches the threshold; the group is cleared (R120, R121, R122). -/
def Obligations.EncWriteCompletesGroup : Prop :=
  ∀ (b : Byte) (s : State) (a : Acc) (symbols : List OutItem), s.rspReady.accepts 1 = true → s.enc.step = .two →
    a = s.enc.acc.extractLsb' 8 16 ++ b →
    symbols = [.byte (encodeSymbol s.cfg (a.extractLsb' 18 6)), .byte (encodeSymbol s.cfg (a.extractLsb' 12 6)),
      .byte (encodeSymbol s.cfg (a.extractLsb' 6 6)), .byte (encodeSymbol s.cfg (a.extractLsb' 0 6))] →
    (ceil4 s.cfg.lineLen = 0 → s.outReady.accepts 4 = true → exec (.encWrite b) s =
      .next ((State.emitted { s with enc := { acc := 0, step := .zero, linecnt := s.enc.linecnt } } symbols).answered
        0#32)) ∧
    (ceil4 s.cfg.lineLen ≠ 0 → s.enc.linecnt + 4 < ceil4 s.cfg.lineLen → s.outReady.accepts 4 = true →
      exec (.encWrite b) s =
      .next ((State.emitted { s with enc := { acc := 0, step := .zero, linecnt := s.enc.linecnt + 4 } } symbols).answered
        0#32)) ∧
    (ceil4 s.cfg.lineLen ≠ 0 → ceil4 s.cfg.lineLen ≤ s.enc.linecnt + 4 → s.outReady.accepts 6 = true →
      exec (.encWrite b) s =
      .next ((State.emitted { s with enc := { acc := 0, step := .zero, linecnt := 0 } }
        (symbols ++ [.byte 0x0D, .byte 0x0A])).answered 0#32))

/-- ENC_FLUSH emits the FLUSH marker and changes no register; a partial group stays (R123). -/
def Obligations.EncFlushEmitsMarkerOnly : Prop :=
  encode .encFlush = 0x20000000#32 ∧ malformedRaisesIllegal 2#4 ∧
  ∀ s : State, s.outReady.accepts 1 = true → s.rspReady.accepts 1 = true →
    exec .encFlush s = .next ((s.emitted [.flush]).answered 0#32)

/-- ENC_FINALIZE emits the tail, its padding and END, and clears the encoder (R124). -/
def Obligations.EncFinalizeEmitsTailAndEnd : Prop :=
  encode .encFinalize = 0x30000000#32 ∧ malformedRaisesIllegal 3#4 ∧
  ∀ (s : State) (tail : List OutItem), s.rspReady.accepts 1 = true →
    (s.enc.step = .zero → tail = []) →
    (s.enc.step = .one → tail =
      [.byte (encodeSymbol s.cfg (s.enc.acc.extractLsb' 18 6)), .byte (encodeSymbol s.cfg (s.enc.acc.extractLsb' 12 6))]
        ++ (if s.cfg.pad = 0 then [] else [.byte s.cfg.pad, .byte s.cfg.pad])) →
    (s.enc.step = .two → tail =
      [.byte (encodeSymbol s.cfg (s.enc.acc.extractLsb' 18 6)), .byte (encodeSymbol s.cfg (s.enc.acc.extractLsb' 12 6)),
        .byte (encodeSymbol s.cfg (s.enc.acc.extractLsb' 6 6))]
        ++ (if s.cfg.pad = 0 then [] else [.byte s.cfg.pad])) →
    s.outReady.accepts (tail.length + 1) = true →
    exec .encFinalize s =
      .next ((State.emitted { s with enc := { acc := 0, step := .zero, linecnt := 0 } }
        (tail ++ [.endOfStream])).answered 0#32)

/-- Encoder commands touch neither the input channel nor configuration, decoder or flags, in every state (R61). -/
def Obligations.EncoderCommandsKeepDecoderAndInput : Prop :=
  ∀ (i : Instr) (s t : State), (∃ b, i = .encWrite b) ∨ i = .encFlush ∨ i = .encFinalize → exec i s = .next t →
    t.inp = s.inp ∧ t.dec = s.dec ∧ t.cfg = s.cfg ∧ t.policy = s.policy ∧ t.cmds = s.cmds ∧ t.rst = s.rst ∧
    s.out <+: t.out ∧ (i = .encFlush → t.enc = s.enc)

/-- One ENC_WRITE appends at most 6 BYTE items and nothing else; ENC_FINALIZE at most 4 BYTE items and one END (R7, R55). -/
def Obligations.EncoderCommandsEmitBoundedItems : Prop :=
  (∀ (b : Byte) (s t : State), exec (.encWrite b) s = .next t → ∃ items, t.out = s.out ++ items ∧
    items.length ≤ Config.maxEmit ∧ ∀ it ∈ items, it.isByte = true) ∧
  (∀ s t : State, exec .encFinalize s = .next t → s.outReady = .always → ∃ items,
    t.out = s.out ++ items ++ [.endOfStream] ∧ items.length ≤ Config.maxTail ∧ ∀ it ∈ items, it.isByte = true)

/-- Waiting on the output channel never changes which items are emitted or their order (R55). A command that waits has
appended as many items as the environment accepted; these and the ones that wait are the items an always-ready environment
takes, and once it is ready the command ends the same. And from any wait, the first or a later one: where the environment
accepts every item left, they are appended and OK 0 is answered or held out; where it accepts `k` of them, those are
appended and the rest wait. -/
def Obligations.OutputWaitKeepsItemsAndOrder : Prop :=
  (∀ (i : Instr) (s t u : State), (∃ b, i = .encWrite b) ∨ i = .encFlush ∨ i = .encFinalize →
    s.rst = false → s.rspReady = .always →
    exec i s = .next t → exec i { s with outReady := .always } = .next u →
    (t.progress = .idle ∧ t.out = u.out ∧ t.rsp = u.rsp ∧ t.enc = u.enc) ∨
    (∃ items k, s.outReady = .times k ∧ t.out.length = s.out.length + k ∧ items ≠ [] ∧
      t.progress = .emit items ∧ t.out ++ items = u.out ∧ t.rsp = s.rsp ∧
      step { t with outReady := .always } = .next u)) ∧
  (∀ (s : State) (items : List OutItem), s.rst = false → s.progress = .emit items →
    (s.outReady.accepts items.length = true →
      (s.rspReady.accepts 1 = true → step s = .next ((s.emitted items).answered 0#32)) ∧
      (s.rspReady.accepts 1 = false → step s = .next { s.emitted items with progress := .respond 0#32 })) ∧
    (∀ k, s.outReady = .times k → k < items.length → step s = .next
      { s with out := s.out ++ items.take k, outReady := .times 0, progress := .emit (items.drop k) }))

/-! ## Decoder -/

/-- DEC_READ with a decoded byte pending returns it and takes no input, exhausted or not (R153). -/
def Obligations.DecReadReturnsPendingByte : Prop :=
  ∀ s : State, s.rspReady.accepts 1 = true → s.dec.err = false → s.dec.step.toNat < s.dec.fill.toNat →
    exec .decRead s = .next (State.answered { s with dec := { s.dec with step := s.dec.step + 1 } }
      (0x100000#24 ++ (if s.dec.step = 1 then s.dec.acc.extractLsb' 8 8 else s.dec.acc.extractLsb' 0 8)))

/-- DEC_READ of four symbols, skip bytes before each: the group is assembled and its first byte returned (R152, n = 4). -/
def Obligations.DecReadDecodesFullGroup : Prop :=
  ∀ (s : State) (g : SymRun) (rest : List InItem) (v1 v2 v3 v4 : SymVal), s.rspReady.accepts 1 = true →
    s.dec.err = false → s.dec.fill.toNat ≤ s.dec.step.toNat → s.dec.exhausted = false →
    SymRun.valid s.cfg g → SymRun.values g = [v1, v2, v3, v4] → s.inp = SymRun.items g ++ rest →
    exec .decRead s = .next (State.answered
      { s with
        inp := rest
        dec := { acc := v1 ++ v2 ++ v3 ++ v4, fill := 3, step := 1, exhausted := false, err := false } }
      (0x100000#24 ++ (v1 ++ v2.extractLsb' 4 2)))

/-- DEC_READ of a group that ends at end-of-data after fewer than four symbols: each row of R152's table, the single
symbol under either policy (R152, R155). -/
def Obligations.DecReadDecodesPartialGroup : Prop :=
  ∀ (s : State) (g : SymRun) (gap : List Byte) (stop : InItem) (rest : List InItem), s.rspReady.accepts 1 = true →
    s.dec.err = false → s.dec.fill.toNat ≤ s.dec.step.toNat → s.dec.exhausted = false →
    SymRun.valid s.cfg g → (∀ b ∈ gap, b ≤ 0x20#8) → endsData s.cfg stop →
    s.inp = SymRun.items g ++ inBytes gap ++ stop :: rest →
    (SymRun.values g = [] → exec .decRead s = .next (State.answered
      { s with inp := rest, dec := { s.dec with fill := 0, step := 0, exhausted := true } } 0x20000000#32)) ∧
    (∀ v1, SymRun.values g = [v1] → s.policy = .emitPartial → exec .decRead s = .next (State.answered
      { s with inp := rest, dec := { acc := v1 ++ 0#18, fill := 1, step := 1, exhausted := true, err := false } }
      (0x100000#24 ++ (v1 ++ 0#2)))) ∧
    (∀ v1, SymRun.values g = [v1] → s.policy = .discard → exec .decRead s = .next (State.answered
      { s with inp := rest, dec := { s.dec with fill := 0, step := 0, exhausted := true } } 0x20000000#32)) ∧
    (∀ v1 v2, SymRun.values g = [v1, v2] → exec .decRead s = .next (State.answered
      { s with inp := rest, dec := { acc := v1 ++ v2 ++ 0#12, fill := 1, step := 1, exhausted := true, err := false } }
      (0x100000#24 ++ (v1 ++ v2.extractLsb' 4 2)))) ∧
    (∀ v1 v2 v3, SymRun.values g = [v1, v2, v3] → exec .decRead s = .next (State.answered
      { s with inp := rest, dec := { acc := v1 ++ v2 ++ v3 ++ 0#6, fill := 2, step := 1, exhausted := true, err := false } }
      (0x100000#24 ++ (v1 ++ v2.extractLsb' 4 2))))

/-- DEC_READ that takes an invalid byte: the byte and the group's symbols stay taken, `dec.acc` is unchanged, the error
is recorded and answered (R212). -/
def Obligations.DecReadSymbolFault : Prop :=
  ∀ (s : State) (g : SymRun) (gap : List Byte) (bad : Byte) (rest : List InItem), s.rspReady.accepts 1 = true →
    s.dec.err = false → s.dec.fill.toNat ≤ s.dec.step.toNat → s.dec.exhausted = false →
    SymRun.valid s.cfg g → List.length g < 4 → (∀ b ∈ gap, b ≤ 0x20#8) →
    0x20#8 < bad → bad ≠ 0x3D#8 → (s.cfg.pad = 0 ∨ bad ≠ s.cfg.pad) → decodeSymbol s.cfg bad = none →
    s.inp = SymRun.items g ++ inBytes gap ++ .byte bad :: rest →
    exec .decRead s = .next (State.answered
      { s with inp := rest, dec := { s.dec with fill := 0, step := 0, err := true } } 0x90000000#32)

/-- Only DEC_READ raises a symbol fault: `dec.err` is set by no other step (R212, R41). -/
def Obligations.OnlyDecReadSetsErr : Prop :=
  ∀ s t : State, step s = .next t → s.dec.err = false → t.dec.err = true →
    s.rst = false ∧ ((∃ syms, s.progress = .fetch syms) ∨ ∃ w rest, s.accepting w rest ∧ decode w = .ok .decRead)

/-- Once exhausted with nothing pending, DEC_READ answers EOD and takes nothing; only SRST with the decoder bit or reset
ends that (R154, R34). -/
def Obligations.EndOfDataPersists : Prop :=
  (∀ s : State, s.rspReady.accepts 1 = true → s.dec.err = false → s.dec.fill.toNat ≤ s.dec.step.toNat →
    s.dec.exhausted = true → exec .decRead s =
      .next (State.answered { s with dec := { s.dec with fill := 0, step := 0 } } 0x20000000#32)) ∧
  (∀ s t : State, step s = .next t → s.dec.exhausted = true → t.dec.exhausted = false →
    s.rst = true ∨ ∃ w rest m, s.accepting w rest ∧ decode w = .ok (.srst m) ∧ m.getLsbD 1 = true)

/-- While exhausted the core takes no item from the input channel (R34, R52). -/
def Obligations.ExhaustedDecoderTakesNoItem : Prop :=
  ∀ s t : State, s.inv = true → s.dec.exhausted = true → step s = .next t → t.inp = s.inp

/-- Items are taken only by DEC_READ and DEC_HAS_MORE (R52). -/
def Obligations.OnlyDecoderCommandsTakeItems : Prop :=
  ∀ s t : State, step s = .next t → t.inp ≠ s.inp →
    (∃ syms, s.progress = .fetch syms) ∨ s.progress = .peek ∨
    ∃ w rest, s.accepting w rest ∧ (decode w = .ok .decRead ∨ decode w = .ok .decHasMore)

/-- The sticky symbol error: the decoder commands answer ERR_SYMBOL and do nothing, every other command runs normally,
and only SRST with the decoder bit or reset clears it (R213). -/
def Obligations.SymbolErrorIsSticky : Prop :=
  (∀ s : State, s.rspReady.accepts 1 = true → s.dec.err = true →
    exec .decRead s = .next (s.answered 0x90000000#32) ∧ exec .decHasMore s = .next (s.answered 0x90000000#32)) ∧
  (∀ (i : Instr) (s : State), i ≠ .decRead → i ≠ .decHasMore → s.dec.err = true → s.rspReady.accepts 1 = true →
    s.outReady.accepts Config.maxEmit = true →
    ∃ t r, exec i s = .next t ∧ t.progress = .idle ∧ t.rsp = s.rsp ++ [r] ∧ responseCode r = 0#4) ∧
  (∀ s t : State, step s = .next t → s.dec.err = true → t.dec.err = false →
    s.rst = true ∨ ∃ w rest m, s.accepting w rest ∧ decode w = .ok (.srst m) ∧ m.getLsbD 1 = true)

/-- DEC_HAS_MORE: the sticky error, a pending byte, exhausted, END taken, a byte peeked and not taken, or a wait (R156). -/
def Obligations.DecHasMoreLooksAhead : Prop :=
  encode .decHasMore = 0x50000000#32 ∧ malformedRaisesIllegal 5#4 ∧
  ∀ s : State,
    (s.rspReady.accepts 1 = true →
      (s.dec.err = true → exec .decHasMore s = .next (s.answered 0x90000000#32)) ∧
      (s.dec.err = false → s.dec.step.toNat < s.dec.fill.toNat → exec .decHasMore s = .next (s.answered 1#32)) ∧
      (s.dec.err = false → s.dec.fill.toNat ≤ s.dec.step.toNat →
        (s.dec.exhausted = true → exec .decHasMore s = .next (s.answered 0#32)) ∧
        (s.dec.exhausted = false → ∀ rest, s.inp = .endOfStream :: rest → exec .decHasMore s =
          .next (State.answered { s with inp := rest, dec := { s.dec with exhausted := true } } 0#32)) ∧
        (s.dec.exhausted = false → ∀ b rest, s.inp = .byte b :: rest → exec .decHasMore s = .next (s.answered 1#32)))) ∧
    (s.dec.err = false → s.dec.fill.toNat ≤ s.dec.step.toNat → s.dec.exhausted = false → s.inp = [] →
      exec .decHasMore s = .next { s with progress := .peek })

/-- Issued twice in a row, DEC_HAS_MORE gives the same answer and takes no further item (R61). -/
def Obligations.DecHasMoreRepeats : Prop :=
  ∀ (s t : State) (r : Word), exec .decHasMore s = .next t → t.rsp = s.rsp ++ [r] → t.rspReady.accepts 1 = true →
    ∃ u, exec .decHasMore t = .next u ∧ u.rsp = t.rsp ++ [r] ∧ u.inp = t.inp ∧ u.dec = t.dec

/-- After DEC_HAS_MORE answers 0 the next DEC_READ answers EOD; after it answers 1 for a pending byte, BYTE (R159). -/
def Obligations.MoreDataLaw : Prop :=
  ∀ s t : State, exec .decHasMore s = .next t → t.rspReady.accepts 1 = true →
    (t.rsp = s.rsp ++ [0#32] → ∃ u, exec .decRead t = .next u ∧ u.rsp = t.rsp ++ [0x20000000#32]) ∧
    (t.rsp = s.rsp ++ [1#32] → s.dec.step.toNat < s.dec.fill.toNat →
      ∃ u r, exec .decRead t = .next u ∧ u.rsp = t.rsp ++ [r] ∧ responseCode r = 1#4)

/-- Decoder commands touch neither the output channel nor configuration or encoder, in every state; the items taken are
the first ones of the channel (R52, R61). -/
def Obligations.DecoderCommandsKeepEncoderAndOutput : Prop :=
  ∀ (i : Instr) (s t : State), i = .decRead ∨ i = .decHasMore → exec i s = .next t →
    t.out = s.out ∧ t.outReady = s.outReady ∧ t.enc = s.enc ∧ t.cfg = s.cfg ∧ t.policy = s.policy ∧
    t.cmds = s.cmds ∧ t.rst = s.rst ∧ t.inp <:+ s.inp

/-- One DEC_READ takes at most four items that are not skip bytes (R251). -/
def Obligations.DecReadTakesAtMostFourSymbols : Prop :=
  ∀ s t : State, exec .decRead s = .next t → ∃ taken, s.inp = taken ++ t.inp ∧
    (taken.filter fun it => match it with
      | .byte b => !isSkip b
      | .endOfStream => true).length ≤ 4

/-! ## Waiting -/

/-- DEC_READ that finds no further item waits, with the symbols fetched so far; nothing else changes, and there is no
response (R53). -/
def Obligations.DecReadWaitsForItems : Prop :=
  ∀ (s : State) (g : SymRun) (gap : List Byte), s.dec.err = false → s.dec.fill.toNat ≤ s.dec.step.toNat →
    s.dec.exhausted = false → SymRun.valid s.cfg g → List.length g < 4 → (∀ b ∈ gap, b ≤ 0x20#8) →
    s.inp = SymRun.items g ++ inBytes gap →
    exec .decRead s = .next { s with inp := [], progress := .fetch (SymRun.values g) }

/-- A DEC_READ or a DEC_HAS_MORE that waited goes on as if all its items had been there at once (R53, R59, R156). -/
def Obligations.DecReadResumesWithLaterItems : Prop :=
  ∀ (s t : State) (a b : List InItem), s.rst = false → s.inp = a →
    (∀ syms, exec .decRead s = .next t → t.progress = .fetch syms →
      step (deliver b t) = exec .decRead { s with inp := a ++ b }) ∧
    (exec .decHasMore s = .next t → t.progress = .peek →
      step (deliver b t) = exec .decHasMore { s with inp := a ++ b })

/-- A core that waits, for a command or on a channel that has not changed, makes no step: the state stays as it is (R53,
R55, R241, R246; that a step of it answers the same state is the model's form of "no step", log entry 2). -/
def Obligations.WaitingCoreMakesNoStep : Prop :=
  ∀ s : State, s.rst = false →
    (s.progress = .idle → s.cmds = [] → step s = .next s) ∧
    (∀ syms, s.progress = .fetch syms → syms.length ≤ 3 → s.dec.exhausted = false → s.inp = [] → step s = .next s) ∧
    (s.progress = .peek → s.inp = [] → step s = .next s) ∧
    (∀ items, s.progress = .emit items → items ≠ [] → s.outReady = .times 0 → step s = .next s) ∧
    (∀ w, s.progress = .respond w → s.rspReady = .times 0 → step s = .next s)

/-- While the host takes no response a command has all its other effects and then holds its response out, which ends the
command once it is taken; a command that waits on another channel waits the same (R246, R250). -/
def Obligations.HeldResponseDelaysOnlyTheEnd : Prop :=
  ∀ (i : Instr) (s t u : State), s.rst = false → s.rspReady.accepts 1 = false →
    exec i s = .next t → exec i { s with rspReady := .always } = .next u →
    (∃ w, u.progress = .idle ∧ u.rsp = s.rsp ++ [w] ∧
      t = { u with progress := .respond w, rsp := s.rsp, rspReady := s.rspReady } ∧
      ∀ q : Ready, q.accepts 1 = true → step { t with rspReady := q } = .next { u with rspReady := q.spend 1 }) ∨
    (t = { u with rspReady := s.rspReady } ∧ t.rsp = s.rsp ∧ t.progress ≠ .idle ∧ ∀ w, t.progress ≠ .respond w)

/-- The handshake levels out of reset are those of the command in progress: `cmd_ready` when idle, `in_ready` inside a
symbol fetch, `rsp_valid` with the response that waits, `out_valid` with the item that waits; in reset all are 0, and no
two are 1 together (R66, R240, R250). R66 gives `cmd_ready` and `in_ready` an "only"; that they are 1 throughout an idle
and a fetching state is the model's choice (log entry 15). -/
def Obligations.PortLevelsFollowProgress : Prop :=
  ∀ s : State,
    (s.rst = false →
      (cmdReady s = true ↔ s.progress = .idle) ∧
      (inReady s = true ↔ ∃ syms, s.progress = .fetch syms) ∧
      (∀ w, rspPort s = some w ↔ s.progress = .respond w) ∧
      (∀ it, outPort s = some it ↔ ∃ rest, s.progress = .emit (it :: rest))) ∧
    (s.rst = true → cmdReady s = false ∧ rspPort s = none ∧ inReady s = false ∧ outPort s = none) ∧
    (cmdReady s = true → rspPort s = none ∧ inReady s = false ∧ outPort s = none) ∧
    (inReady s = true → rspPort s = none ∧ outPort s = none) ∧
    (∀ w, rspPort s = some w → outPort s = none)

/-! ## Reset and invariants -/

/-- The reset values of every register, and of the read-only ones (R43). -/
def Obligations.ResetValues : Prop :=
  State.reset.cfg = { sym62 := 0x2B, sym63 := 0x2F, pad := 0x3D, lineLen := 0 } ∧
  State.reset.enc = { acc := 0, step := .zero, linecnt := 0 } ∧
  State.reset.dec = { acc := 0, fill := 0, step := 0, exhausted := false, err := false } ∧
  readReg State.reset .id = 0x0B6407#24 ∧ readReg State.reset .lineThresh = 0#24 ∧
  readReg State.reset .encState = 0#24 ∧ readReg State.reset .decState = 0#24 ∧
  State.reset.progress = .idle

/-- Reset at any moment: every register takes its reset value, the command in progress is abandoned without a response,
and the channels stay as they are (R240). Whether the pin stays up is the model's choice (log entry 5), not said here. -/
def Obligations.ResetAbandonsCommandInProgress : Prop :=
  ∀ s : State, s.rst = true → ∃ t, step s = .next t ∧ t.cfg = State.reset.cfg ∧ t.enc = State.reset.enc ∧
    t.dec = State.reset.dec ∧ t.progress = .idle ∧ t.rsp = s.rsp ∧ t.out = s.out ∧ t.inp = s.inp ∧ t.cmds = s.cmds ∧
    t.policy = s.policy ∧
    cmdReady s = false ∧ rspPort s = none ∧ inReady s = false ∧ outPort s = none

/-- The invariant holds after reset; its clause on a command in progress is the model's own (log entry 2). -/
def Obligations.ResetMeetsMachineInvariant : Prop := State.reset.inv = true

/-- Every step keeps the encoder's invariant, from any state that has it (R30). -/
def Obligations.StepKeepsEncoderInvariant : Prop :=
  ∀ s t : State, s.enc.inv = true → step s = .next t → t.enc.inv = true

/-- Every step keeps the decoder's invariant and what a command in progress can be (R36, with the model's own clause on
the command in progress, log entry 2). -/
def Obligations.StepKeepsMachineInvariant : Prop :=
  ∀ s t : State, s.inv = true → step s = .next t → t.inv = true

/-! ## Streams -/

/-- An encode stream's output is the wire format of its bytes, then END; the encoder is left cleared (R125, R127). -/
def Obligations.EncodeStreamIsWireFormat : Prop :=
  ∀ (bs : List Byte) (s : State), s.calm → s.enc = Enc.reset → ∃ t, encStream bs s = some t ∧
    t.out = s.out ++ wire s.cfg 0 bs ++ [.endOfStream] ∧ t.enc = Enc.reset ∧ t.cfg = s.cfg ∧ t.dec = s.dec ∧
    t.inp = s.inp ∧ t.calm

/-- The number of padding symbols of a stream by its length, and the length of what comes before them (R125, R126). -/
def Obligations.PaddingLaw : Prop :=
  ∀ (bs : List Byte) (s : State), s.calm → s.enc = Enc.reset → ∃ t body, encStream bs s = some t ∧
    t.out = s.out ++ body ++
      List.replicate (if s.cfg.pad = 0 then 0 else (3 - bs.length % 3) % 3) (.byte s.cfg.pad) ++ [.endOfStream] ∧
    body.length = 4 * (bs.length / 3) + (if bs.length % 3 = 0 then 0 else bs.length % 3 + 1) +
      2 * (if s.cfg.threshold = 0 then 0 else 4 * (bs.length / 3) / s.cfg.threshold)

/-- The output of a stream does not depend on ENC_FLUSH and CFG_READ commands between the writes, but for the FLUSH
markers (R128). -/
def Obligations.ChunkingIndependence : Prop :=
  ∀ (is : List Instr) (bs : List Byte) (s : State), s.calm →
    (∀ i ∈ is, (∃ b, i = .encWrite b) ∨ i = .encFlush ∨ ∃ r, i = cfgReadOf r) →
    (is.filterMap fun i => match i with
      | .encWrite b => some b
      | _ => none) = bs →
    ∃ t u, hostRun is s = some t ∧ encWriteN bs s = some u ∧ t.enc = u.enc ∧
      t.out.filter OutItem.isByte = u.out.filter OutItem.isByte

/-- Skip bytes inserted in or removed from the input before the item that ends the stream change no response of
DEC_READ, up to and with the first that is not BYTE, where the host's loop stops (R158, R87). -/
def Obligations.WhitespaceLaw : Prop :=
  ∀ (n : Nat) (s u : State) (a b : List Byte) (stop : InItem) (rest rest' : List InItem), s.calm →
    endsData s.cfg stop → s.inp = inBytes a ++ stop :: rest → withoutSkips a = withoutSkips b →
    u = { s with inp := inBytes b ++ stop :: rest' } →
    (decReadN n u).bytes = (decReadN n s).bytes ∧ (decReadN n u).stop = (decReadN n s).stop ∧
    (decReadN n u).state.rsp = (decReadN n s).state.rsp

/-- What the encoder emits for a byte sequence, with any skip bytes inserted, decodes to the sequence and then
end-of-data, under the conditions of R248 (R160). -/
def Obligations.RoundTripLaw : Prop :=
  ∀ (bs : List Byte) (s : State), s.calm → s.enc = Enc.reset → s.cfg.roundTrips →
    ∃ t body, encStream bs s = some t ∧ t.out = s.out ++ outBytes body ++ [.endOfStream] ∧
      ∀ (u : State) (noisy : List Byte) (rest : List InItem), u.calm → u.cfg = s.cfg → u.dec = Dec.reset →
        withoutSkips noisy = withoutSkips body → u.inp = inBytes noisy ++ .endOfStream :: rest →
        (decReadN (bs.length + 1) u).bytes = bs ∧
        (decReadN (bs.length + 1) u).stop = .code (ResultCode.bits .eod)

/-! ## Assembler -/

/-- The pseudo-commands expand to their commands in order, a value that does not fit its field is refused, and R88's
encoding examples hold (R85, R86, R88). -/
def Obligations.AssemblerExpandsPseudoCommands : Prop :=
  (∀ bs : List Byte, assembleLine (.encWriteN (bs.map BitVec.toNat)) = some (bs.map fun b => encode (.encWrite b))) ∧
  (∀ (a b c : Byte) (l : LineLen), assembleLine (.cfgInit a.toNat b.toNat c.toNat l.toNat) =
    some [encode (.cfgWriteSym62 a), encode (.cfgWriteSym63 b), encode (.cfgWritePad c), encode (.cfgWriteLineLen l)]) ∧
  (∀ l : AsmLine, l.wellFormed = false → assembleLine l = none) ∧
  assembleText "ENC_WRITE 'M'" = some [0x1000004D#32] ∧ assembleText "CFG_WRITE LINE_LEN, 76" = some [0x6300004C#32] ∧
  assembleText "CFG_READ DEC_STATE" = some [0x77000000#32] ∧ assembleText "SRST ENC|DEC" = some [0x80000003#32] ∧
  assembleText "SRST ENC|DEC|CFG" = some [0x80000007#32] ∧ assembleText ".word 0x90000000" = some [0x90000000#32]

/-! ## Pins -/

/-- The item pins: `out_kind` is 0, 1, 2 for BYTE, FLUSH, END and never 3, `out_data` is the byte, and 0 where `out_kind`
is not 0, so that the two pins tell all items apart; `in_end` = 1 is END whatever `in_data` is (R66). -/
def Obligations.PinsCarryItems : Prop :=
  (∀ b : Byte, (OutItem.byte b).kind = 0#2 ∧ (OutItem.byte b).data = b) ∧
  OutItem.flush.kind = 1#2 ∧ OutItem.endOfStream.kind = 2#2 ∧
  (∀ it : OutItem, it.kind ≠ 3#2 ∧ (it.kind ≠ 0#2 → it.data = 0#8)) ∧
  (∀ a b : OutItem, a.kind = b.kind → a.data = b.data → a = b) ∧
  (∀ d : Byte, inItemOfPins true d = .endOfStream ∧ inItemOfPins false d = .byte d)
end

