-- ==== Sys2Proof/Laws/State.lean ====
section
/-!
SUPPORT. One lemma per field per update of State (spec 00_scope.md R10: `x <- v` writes x and nothing else), so that no
proof unfolds a record update.
-/

namespace Sys2Proof.Machine

/-! ## State.withCfg -/

@[simp] theorem State.withCfg_cfg (s : State) (c : Cfg) : (s.withCfg c).cfg = c := rfl
@[simp] theorem State.withCfg_enc (s : State) (c : Cfg) : (s.withCfg c).enc = s.enc := rfl
@[simp] theorem State.withCfg_dec (s : State) (c : Cfg) : (s.withCfg c).dec = s.dec := rfl
@[simp] theorem State.withCfg_policy (s : State) (c : Cfg) : (s.withCfg c).policy = s.policy := rfl
@[simp] theorem State.withCfg_progress (s : State) (c : Cfg) : (s.withCfg c).progress = s.progress := rfl
@[simp] theorem State.withCfg_cmds (s : State) (c : Cfg) : (s.withCfg c).cmds = s.cmds := rfl
@[simp] theorem State.withCfg_inp (s : State) (c : Cfg) : (s.withCfg c).inp = s.inp := rfl
@[simp] theorem State.withCfg_out (s : State) (c : Cfg) : (s.withCfg c).out = s.out := rfl
@[simp] theorem State.withCfg_rsp (s : State) (c : Cfg) : (s.withCfg c).rsp = s.rsp := rfl
@[simp] theorem State.withCfg_outReady (s : State) (c : Cfg) : (s.withCfg c).outReady = s.outReady := rfl
@[simp] theorem State.withCfg_rspReady (s : State) (c : Cfg) : (s.withCfg c).rspReady = s.rspReady := rfl
@[simp] theorem State.withCfg_rst (s : State) (c : Cfg) : (s.withCfg c).rst = s.rst := rfl

/-! ## State.withEnc -/

@[simp] theorem State.withEnc_cfg (s : State) (e : Enc) : (s.withEnc e).cfg = s.cfg := rfl
@[simp] theorem State.withEnc_enc (s : State) (e : Enc) : (s.withEnc e).enc = e := rfl
@[simp] theorem State.withEnc_dec (s : State) (e : Enc) : (s.withEnc e).dec = s.dec := rfl
@[simp] theorem State.withEnc_policy (s : State) (e : Enc) : (s.withEnc e).policy = s.policy := rfl
@[simp] theorem State.withEnc_progress (s : State) (e : Enc) : (s.withEnc e).progress = s.progress := rfl
@[simp] theorem State.withEnc_cmds (s : State) (e : Enc) : (s.withEnc e).cmds = s.cmds := rfl
@[simp] theorem State.withEnc_inp (s : State) (e : Enc) : (s.withEnc e).inp = s.inp := rfl
@[simp] theorem State.withEnc_out (s : State) (e : Enc) : (s.withEnc e).out = s.out := rfl
@[simp] theorem State.withEnc_rsp (s : State) (e : Enc) : (s.withEnc e).rsp = s.rsp := rfl
@[simp] theorem State.withEnc_outReady (s : State) (e : Enc) : (s.withEnc e).outReady = s.outReady := rfl
@[simp] theorem State.withEnc_rspReady (s : State) (e : Enc) : (s.withEnc e).rspReady = s.rspReady := rfl
@[simp] theorem State.withEnc_rst (s : State) (e : Enc) : (s.withEnc e).rst = s.rst := rfl

/-! ## State.withDec -/

@[simp] theorem State.withDec_cfg (s : State) (d : Dec) : (s.withDec d).cfg = s.cfg := rfl
@[simp] theorem State.withDec_enc (s : State) (d : Dec) : (s.withDec d).enc = s.enc := rfl
@[simp] theorem State.withDec_dec (s : State) (d : Dec) : (s.withDec d).dec = d := rfl
@[simp] theorem State.withDec_policy (s : State) (d : Dec) : (s.withDec d).policy = s.policy := rfl
@[simp] theorem State.withDec_progress (s : State) (d : Dec) : (s.withDec d).progress = s.progress := rfl
@[simp] theorem State.withDec_cmds (s : State) (d : Dec) : (s.withDec d).cmds = s.cmds := rfl
@[simp] theorem State.withDec_inp (s : State) (d : Dec) : (s.withDec d).inp = s.inp := rfl
@[simp] theorem State.withDec_out (s : State) (d : Dec) : (s.withDec d).out = s.out := rfl
@[simp] theorem State.withDec_rsp (s : State) (d : Dec) : (s.withDec d).rsp = s.rsp := rfl
@[simp] theorem State.withDec_outReady (s : State) (d : Dec) : (s.withDec d).outReady = s.outReady := rfl
@[simp] theorem State.withDec_rspReady (s : State) (d : Dec) : (s.withDec d).rspReady = s.rspReady := rfl
@[simp] theorem State.withDec_rst (s : State) (d : Dec) : (s.withDec d).rst = s.rst := rfl

/-! ## State.withInp -/

@[simp] theorem State.withInp_cfg (s : State) (l : List InItem) : (s.withInp l).cfg = s.cfg := rfl
@[simp] theorem State.withInp_enc (s : State) (l : List InItem) : (s.withInp l).enc = s.enc := rfl
@[simp] theorem State.withInp_dec (s : State) (l : List InItem) : (s.withInp l).dec = s.dec := rfl
@[simp] theorem State.withInp_policy (s : State) (l : List InItem) : (s.withInp l).policy = s.policy := rfl
@[simp] theorem State.withInp_progress (s : State) (l : List InItem) : (s.withInp l).progress = s.progress := rfl
@[simp] theorem State.withInp_cmds (s : State) (l : List InItem) : (s.withInp l).cmds = s.cmds := rfl
@[simp] theorem State.withInp_inp (s : State) (l : List InItem) : (s.withInp l).inp = l := rfl
@[simp] theorem State.withInp_out (s : State) (l : List InItem) : (s.withInp l).out = s.out := rfl
@[simp] theorem State.withInp_rsp (s : State) (l : List InItem) : (s.withInp l).rsp = s.rsp := rfl
@[simp] theorem State.withInp_outReady (s : State) (l : List InItem) : (s.withInp l).outReady = s.outReady := rfl
@[simp] theorem State.withInp_rspReady (s : State) (l : List InItem) : (s.withInp l).rspReady = s.rspReady := rfl
@[simp] theorem State.withInp_rst (s : State) (l : List InItem) : (s.withInp l).rst = s.rst := rfl

/-! ## State.withProgress -/

@[simp] theorem State.withProgress_cfg (s : State) (p : Progress) : (s.withProgress p).cfg = s.cfg := rfl
@[simp] theorem State.withProgress_enc (s : State) (p : Progress) : (s.withProgress p).enc = s.enc := rfl
@[simp] theorem State.withProgress_dec (s : State) (p : Progress) : (s.withProgress p).dec = s.dec := rfl
@[simp] theorem State.withProgress_policy (s : State) (p : Progress) : (s.withProgress p).policy = s.policy := rfl
@[simp] theorem State.withProgress_progress (s : State) (p : Progress) : (s.withProgress p).progress = p := rfl
@[simp] theorem State.withProgress_cmds (s : State) (p : Progress) : (s.withProgress p).cmds = s.cmds := rfl
@[simp] theorem State.withProgress_inp (s : State) (p : Progress) : (s.withProgress p).inp = s.inp := rfl
@[simp] theorem State.withProgress_out (s : State) (p : Progress) : (s.withProgress p).out = s.out := rfl
@[simp] theorem State.withProgress_rsp (s : State) (p : Progress) : (s.withProgress p).rsp = s.rsp := rfl
@[simp] theorem State.withProgress_outReady (s : State) (p : Progress) : (s.withProgress p).outReady = s.outReady := rfl
@[simp] theorem State.withProgress_rspReady (s : State) (p : Progress) : (s.withProgress p).rspReady = s.rspReady := rfl
@[simp] theorem State.withProgress_rst (s : State) (p : Progress) : (s.withProgress p).rst = s.rst := rfl

/-! ## appendOut -/

@[simp] theorem appendOut_cfg (items : List OutItem) (s : State) : (appendOut items s).cfg = s.cfg := rfl
@[simp] theorem appendOut_enc (items : List OutItem) (s : State) : (appendOut items s).enc = s.enc := rfl
@[simp] theorem appendOut_dec (items : List OutItem) (s : State) : (appendOut items s).dec = s.dec := rfl
@[simp] theorem appendOut_policy (items : List OutItem) (s : State) : (appendOut items s).policy = s.policy := rfl
@[simp] theorem appendOut_progress (items : List OutItem) (s : State) : (appendOut items s).progress = s.progress := rfl
@[simp] theorem appendOut_cmds (items : List OutItem) (s : State) : (appendOut items s).cmds = s.cmds := rfl
@[simp] theorem appendOut_inp (items : List OutItem) (s : State) : (appendOut items s).inp = s.inp := rfl
@[simp] theorem appendOut_rsp (items : List OutItem) (s : State) : (appendOut items s).rsp = s.rsp := rfl
@[simp] theorem appendOut_rspReady (items : List OutItem) (s : State) : (appendOut items s).rspReady = s.rspReady := rfl
@[simp] theorem appendOut_rst (items : List OutItem) (s : State) : (appendOut items s).rst = s.rst := rfl

theorem appendOut_out (items : List OutItem) (s : State) :
    (appendOut items s).out = s.out ++ items.take (s.outReady.grant items.length) := rfl

/-! ## softReset -/

@[simp] theorem softReset_policy (m : BitVec 3) (s : State) : (softReset m s).policy = s.policy := rfl
@[simp] theorem softReset_progress (m : BitVec 3) (s : State) : (softReset m s).progress = s.progress := rfl
@[simp] theorem softReset_cmds (m : BitVec 3) (s : State) : (softReset m s).cmds = s.cmds := rfl
@[simp] theorem softReset_inp (m : BitVec 3) (s : State) : (softReset m s).inp = s.inp := rfl
@[simp] theorem softReset_out (m : BitVec 3) (s : State) : (softReset m s).out = s.out := rfl
@[simp] theorem softReset_rsp (m : BitVec 3) (s : State) : (softReset m s).rsp = s.rsp := rfl
@[simp] theorem softReset_outReady (m : BitVec 3) (s : State) : (softReset m s).outReady = s.outReady := rfl
@[simp] theorem softReset_rspReady (m : BitVec 3) (s : State) : (softReset m s).rspReady = s.rspReady := rfl
@[simp] theorem softReset_rst (m : BitVec 3) (s : State) : (softReset m s).rst = s.rst := rfl

theorem softReset_enc (m : BitVec 3) (s : State) :
    (softReset m s).enc = if m.getLsbD 0 then Enc.reset else s.enc := rfl

theorem softReset_dec (m : BitVec 3) (s : State) :
    (softReset m s).dec = if m.getLsbD 1 then Dec.reset else s.dec := rfl

theorem softReset_cfg (m : BitVec 3) (s : State) :
    (softReset m s).cfg = if m.getLsbD 2 then Cfg.reset else s.cfg := rfl

/-! ## resetEdge -/

@[simp] theorem resetEdge_cfg (s : State) : (resetEdge s).cfg = Cfg.reset := rfl
@[simp] theorem resetEdge_enc (s : State) : (resetEdge s).enc = Enc.reset := rfl
@[simp] theorem resetEdge_dec (s : State) : (resetEdge s).dec = Dec.reset := rfl
@[simp] theorem resetEdge_policy (s : State) : (resetEdge s).policy = s.policy := rfl
@[simp] theorem resetEdge_progress (s : State) : (resetEdge s).progress = .idle := rfl
@[simp] theorem resetEdge_cmds (s : State) : (resetEdge s).cmds = s.cmds := rfl
@[simp] theorem resetEdge_inp (s : State) : (resetEdge s).inp = s.inp := rfl
@[simp] theorem resetEdge_out (s : State) : (resetEdge s).out = s.out := rfl
@[simp] theorem resetEdge_rsp (s : State) : (resetEdge s).rsp = s.rsp := rfl
@[simp] theorem resetEdge_outReady (s : State) : (resetEdge s).outReady = s.outReady := rfl
@[simp] theorem resetEdge_rspReady (s : State) : (resetEdge s).rspReady = s.rspReady := rfl
@[simp] theorem resetEdge_rst (s : State) : (resetEdge s).rst = false := rfl

/-! ## State.afterFetch -/

@[simp] theorem State.afterFetch_cfg (s : State) (f : GroupFetch) : (s.afterFetch f).cfg = s.cfg := rfl
@[simp] theorem State.afterFetch_enc (s : State) (f : GroupFetch) : (s.afterFetch f).enc = s.enc := rfl
@[simp] theorem State.afterFetch_dec (s : State) (f : GroupFetch) : (s.afterFetch f).dec = s.dec.setExhausted f.exhausted := rfl
@[simp] theorem State.afterFetch_policy (s : State) (f : GroupFetch) : (s.afterFetch f).policy = s.policy := rfl
@[simp] theorem State.afterFetch_progress (s : State) (f : GroupFetch) : (s.afterFetch f).progress = s.progress := rfl
@[simp] theorem State.afterFetch_cmds (s : State) (f : GroupFetch) : (s.afterFetch f).cmds = s.cmds := rfl
@[simp] theorem State.afterFetch_inp (s : State) (f : GroupFetch) : (s.afterFetch f).inp = f.inp := rfl
@[simp] theorem State.afterFetch_out (s : State) (f : GroupFetch) : (s.afterFetch f).out = s.out := rfl
@[simp] theorem State.afterFetch_rsp (s : State) (f : GroupFetch) : (s.afterFetch f).rsp = s.rsp := rfl
@[simp] theorem State.afterFetch_outReady (s : State) (f : GroupFetch) : (s.afterFetch f).outReady = s.outReady := rfl
@[simp] theorem State.afterFetch_rspReady (s : State) (f : GroupFetch) : (s.afterFetch f).rspReady = s.rspReady := rfl
@[simp] theorem State.afterFetch_rst (s : State) (f : GroupFetch) : (s.afterFetch f).rst = s.rst := rfl

/-! ## issue -/

@[simp] theorem issue_cfg (w : Word) (s : State) : (issue w s).cfg = s.cfg := rfl
@[simp] theorem issue_enc (w : Word) (s : State) : (issue w s).enc = s.enc := rfl
@[simp] theorem issue_dec (w : Word) (s : State) : (issue w s).dec = s.dec := rfl
@[simp] theorem issue_policy (w : Word) (s : State) : (issue w s).policy = s.policy := rfl
@[simp] theorem issue_progress (w : Word) (s : State) : (issue w s).progress = s.progress := rfl
@[simp] theorem issue_cmds (w : Word) (s : State) : (issue w s).cmds = s.cmds ++ [w] := rfl
@[simp] theorem issue_inp (w : Word) (s : State) : (issue w s).inp = s.inp := rfl
@[simp] theorem issue_out (w : Word) (s : State) : (issue w s).out = s.out := rfl
@[simp] theorem issue_rsp (w : Word) (s : State) : (issue w s).rsp = s.rsp := rfl
@[simp] theorem issue_outReady (w : Word) (s : State) : (issue w s).outReady = s.outReady := rfl
@[simp] theorem issue_rspReady (w : Word) (s : State) : (issue w s).rspReady = s.rspReady := rfl
@[simp] theorem issue_rst (w : Word) (s : State) : (issue w s).rst = s.rst := rfl

/-! ## Flags -/

@[simp] theorem Dec.setExhausted_acc (d : Dec) (v : Bool) : (d.setExhausted v).acc = d.acc := rfl
@[simp] theorem Dec.setExhausted_fill (d : Dec) (v : Bool) : (d.setExhausted v).fill = d.fill := rfl
@[simp] theorem Dec.setExhausted_step (d : Dec) (v : Bool) : (d.setExhausted v).step = d.step := rfl
@[simp] theorem Dec.setExhausted_exhausted (d : Dec) (v : Bool) : (d.setExhausted v).exhausted = v := rfl
@[simp] theorem Dec.setExhausted_err (d : Dec) (v : Bool) : (d.setExhausted v).err = d.err := rfl

theorem Dec.setExhausted_self (d : Dec) : d.setExhausted d.exhausted = d := rfl

@[simp] theorem Dec.faulted_acc (d : Dec) : d.faulted.acc = d.acc := rfl
@[simp] theorem Dec.faulted_fill (d : Dec) : d.faulted.fill = 0 := rfl
@[simp] theorem Dec.faulted_step (d : Dec) : d.faulted.step = 0 := rfl
@[simp] theorem Dec.faulted_exhausted (d : Dec) : d.faulted.exhausted = d.exhausted := rfl
@[simp] theorem Dec.faulted_err (d : Dec) : d.faulted.err = true := rfl

end Sys2Proof.Machine
end

