-- ==== Sys2Proof/Laws/Ops.lean ====
section
/-!
SUPPORT. What each shared operation of Machine/Ops.lean can do, said once: the response (spec 00_scope.md R11,
70_reset_and_hazards.md R246), the output channel (20_memory.md R55), the exceptions (60_exceptions.md R211, R212).
-/

namespace Sys2Proof.Machine

/-! ## Ready -/

theorem Ready.grant_le (r : Ready) (n : Nat) : r.grant n ≤ n := by
  cases r <;> simp [Ready.grant]

theorem Ready.grant_of_accepts {r : Ready} {n : Nat} (h : r.accepts n = true) : r.grant n = n := by
  cases r <;> simp_all [Ready.grant, Ready.accepts]

theorem Ready.grant_lt_of_not_accepts {r : Ready} {n : Nat} (h : r.accepts n = false) : r.grant n < n := by
  cases r <;> simp_all [Ready.grant, Ready.accepts]

theorem Ready.accepts_mono {r : Ready} {m n : Nat} (h : r.accepts n = true) (hm : m ≤ n) : r.accepts m = true := by
  cases r <;> simp_all [Ready.accepts]; omega

@[simp] theorem Ready.always_accepts (n : Nat) : Ready.always.accepts n = true := rfl
@[simp] theorem Ready.always_spend (n : Nat) : Ready.always.spend n = .always := rfl
@[simp] theorem Ready.always_grant (n : Nat) : Ready.always.grant n = n := rfl
@[simp] theorem Ready.accepts_zero (r : Ready) : r.accepts 0 = true := by cases r <;> rfl

/-! ## The response ends a command, or waits (R246, R250) -/

theorem sendResponse_of_accepts {s : State} (w : Word) (h : s.rspReady.accepts 1 = true) :
    sendResponse w s = s.answered w := by
  simp [sendResponse, h, State.answered]

theorem sendResponse_of_not_accepts {s : State} (w : Word) (h : s.rspReady.accepts 1 = false) :
    sendResponse w s = s.withProgress (.respond w) := by
  simp [sendResponse, h]

/-- Everything a response can do: it transfers, or it waits and nothing else changes. -/
theorem sendResponse_cases (w : Word) (s : State) :
    (s.rspReady.accepts 1 = true ∧ sendResponse w s = s.answered w) ∨
    (s.rspReady.accepts 1 = false ∧ sendResponse w s = s.withProgress (.respond w)) := by
  cases h : s.rspReady.accepts 1
  · exact .inr ⟨rfl, sendResponse_of_not_accepts w h⟩
  · exact .inl ⟨rfl, sendResponse_of_accepts w h⟩

@[simp] theorem sendResponse_cfg (w : Word) (s : State) : (sendResponse w s).cfg = s.cfg := by
  unfold sendResponse; split <;> rfl

@[simp] theorem sendResponse_enc (w : Word) (s : State) : (sendResponse w s).enc = s.enc := by
  unfold sendResponse; split <;> rfl

@[simp] theorem sendResponse_dec (w : Word) (s : State) : (sendResponse w s).dec = s.dec := by
  unfold sendResponse; split <;> rfl

@[simp] theorem sendResponse_policy (w : Word) (s : State) : (sendResponse w s).policy = s.policy := by
  unfold sendResponse; split <;> rfl

@[simp] theorem sendResponse_cmds (w : Word) (s : State) : (sendResponse w s).cmds = s.cmds := by
  unfold sendResponse; split <;> rfl

@[simp] theorem sendResponse_inp (w : Word) (s : State) : (sendResponse w s).inp = s.inp := by
  unfold sendResponse; split <;> rfl

@[simp] theorem sendResponse_out (w : Word) (s : State) : (sendResponse w s).out = s.out := by
  unfold sendResponse; split <;> rfl

@[simp] theorem sendResponse_outReady (w : Word) (s : State) : (sendResponse w s).outReady = s.outReady := by
  unfold sendResponse; split <;> rfl

@[simp] theorem sendResponse_rst (w : Word) (s : State) : (sendResponse w s).rst = s.rst := by
  unfold sendResponse; split <;> rfl

@[simp] theorem respond_cfg (rc : ResultCode) (data : Acc) (s : State) :
    (respond rc data s).cfg = s.cfg := sendResponse_cfg _ s

@[simp] theorem respond_enc (rc : ResultCode) (data : Acc) (s : State) :
    (respond rc data s).enc = s.enc := sendResponse_enc _ s

@[simp] theorem respond_dec (rc : ResultCode) (data : Acc) (s : State) :
    (respond rc data s).dec = s.dec := sendResponse_dec _ s

@[simp] theorem respond_policy (rc : ResultCode) (data : Acc) (s : State) :
    (respond rc data s).policy = s.policy := sendResponse_policy _ s

@[simp] theorem respond_cmds (rc : ResultCode) (data : Acc) (s : State) :
    (respond rc data s).cmds = s.cmds := sendResponse_cmds _ s

@[simp] theorem respond_inp (rc : ResultCode) (data : Acc) (s : State) :
    (respond rc data s).inp = s.inp := sendResponse_inp _ s

@[simp] theorem respond_out (rc : ResultCode) (data : Acc) (s : State) :
    (respond rc data s).out = s.out := sendResponse_out _ s

@[simp] theorem respond_outReady (rc : ResultCode) (data : Acc) (s : State) :
    (respond rc data s).outReady = s.outReady := sendResponse_outReady _ s

@[simp] theorem respond_rst (rc : ResultCode) (data : Acc) (s : State) :
    (respond rc data s).rst = s.rst := sendResponse_rst _ s

@[simp] theorem State.answered_cfg (s : State) (w : Word) : (s.answered w).cfg = s.cfg := rfl
@[simp] theorem State.answered_enc (s : State) (w : Word) : (s.answered w).enc = s.enc := rfl
@[simp] theorem State.answered_dec (s : State) (w : Word) : (s.answered w).dec = s.dec := rfl
@[simp] theorem State.answered_policy (s : State) (w : Word) : (s.answered w).policy = s.policy := rfl
@[simp] theorem State.answered_progress (s : State) (w : Word) : (s.answered w).progress = .idle := rfl
@[simp] theorem State.answered_cmds (s : State) (w : Word) : (s.answered w).cmds = s.cmds := rfl
@[simp] theorem State.answered_inp (s : State) (w : Word) : (s.answered w).inp = s.inp := rfl
@[simp] theorem State.answered_out (s : State) (w : Word) : (s.answered w).out = s.out := rfl
@[simp] theorem State.answered_rsp (s : State) (w : Word) : (s.answered w).rsp = s.rsp ++ [w] := rfl
@[simp] theorem State.answered_outReady (s : State) (w : Word) : (s.answered w).outReady = s.outReady := rfl
@[simp] theorem State.answered_rspReady (s : State) (w : Word) : (s.answered w).rspReady = s.rspReady.spend 1 := rfl
@[simp] theorem State.answered_rst (s : State) (w : Word) : (s.answered w).rst = s.rst := rfl
@[simp] theorem State.emitted_cfg (s : State) (items : List OutItem) : (s.emitted items).cfg = s.cfg := rfl
@[simp] theorem State.emitted_enc (s : State) (items : List OutItem) : (s.emitted items).enc = s.enc := rfl
@[simp] theorem State.emitted_dec (s : State) (items : List OutItem) : (s.emitted items).dec = s.dec := rfl
@[simp] theorem State.emitted_policy (s : State) (items : List OutItem) : (s.emitted items).policy = s.policy := rfl
@[simp] theorem State.emitted_progress (s : State) (items : List OutItem) : (s.emitted items).progress = s.progress := rfl
@[simp] theorem State.emitted_cmds (s : State) (items : List OutItem) : (s.emitted items).cmds = s.cmds := rfl
@[simp] theorem State.emitted_inp (s : State) (items : List OutItem) : (s.emitted items).inp = s.inp := rfl
@[simp] theorem State.emitted_out (s : State) (items : List OutItem) : (s.emitted items).out = s.out ++ items := rfl
@[simp] theorem State.emitted_rsp (s : State) (items : List OutItem) : (s.emitted items).rsp = s.rsp := rfl
@[simp] theorem State.emitted_outReady (s : State) (items : List OutItem) : (s.emitted items).outReady = s.outReady.spend items.length := rfl
@[simp] theorem State.emitted_rspReady (s : State) (items : List OutItem) : (s.emitted items).rspReady = s.rspReady := rfl
@[simp] theorem State.emitted_rst (s : State) (items : List OutItem) : (s.emitted items).rst = s.rst := rfl

/-! ## Encoder commands append, then answer OK 0 (R55) -/

theorem appendOut_of_accepts {s : State} {items : List OutItem} (h : s.outReady.accepts items.length = true) :
    appendOut items s = s.emitted items := by
  simp [appendOut, Ready.grant_of_accepts h, State.emitted]

theorem emitThenOk_of_accepts {s : State} {items : List OutItem} (ho : s.outReady.accepts items.length = true)
    (hr : s.rspReady.accepts 1 = true) : emitThenOk items s = (s.emitted items).answered 0 := by
  have h : (appendOut items s).rspReady.accepts 1 = true := hr
  simp only [emitThenOk, ho, if_true, respond]
  rw [sendResponse_of_accepts _ h, appendOut_of_accepts ho]
  rfl

@[simp] theorem emitThenOk_cfg (items : List OutItem) (s : State) : (emitThenOk items s).cfg = s.cfg := by
  unfold emitThenOk; split <;> simp

@[simp] theorem emitThenOk_enc (items : List OutItem) (s : State) : (emitThenOk items s).enc = s.enc := by
  unfold emitThenOk; split <;> simp

@[simp] theorem emitThenOk_dec (items : List OutItem) (s : State) : (emitThenOk items s).dec = s.dec := by
  unfold emitThenOk; split <;> simp

@[simp] theorem emitThenOk_policy (items : List OutItem) (s : State) : (emitThenOk items s).policy = s.policy := by
  unfold emitThenOk; split <;> simp

@[simp] theorem emitThenOk_cmds (items : List OutItem) (s : State) : (emitThenOk items s).cmds = s.cmds := by
  unfold emitThenOk; split <;> simp

@[simp] theorem emitThenOk_inp (items : List OutItem) (s : State) : (emitThenOk items s).inp = s.inp := by
  unfold emitThenOk; split <;> simp

@[simp] theorem emitThenOk_rst (items : List OutItem) (s : State) : (emitThenOk items s).rst = s.rst := by
  unfold emitThenOk; split <;> simp

/-- The items appended and those that wait are the items given, in their order. -/
theorem emitThenOk_out (items : List OutItem) (s : State) :
    (emitThenOk items s).out = s.out ++ items.take (s.outReady.grant items.length) := by
  unfold emitThenOk; split <;> simp [appendOut_out]

theorem emitThenOk_out_extends (items : List OutItem) (s : State) : s.out <+: (emitThenOk items s).out := by
  rw [emitThenOk_out]; exact List.prefix_append _ _

/-! ## Exceptions (R211, R212) -/

theorem raise_illegal (s : State) : raise .illegal s = respond .errIllegal 0 s := rfl

theorem raise_symbolFault (s : State) : raise .symbolFault s = respond .errSymbol 0 (s.withDec s.dec.faulted) := rfl

/-! ## Response words (R74, R75) -/

theorem responseWord_getLsbD (rc : ResultCode) (data : Acc) (i : Nat) :
    (responseWord rc data).getLsbD i =
      if i < 24 then data.getLsbD i else if i < 28 then false else rc.bits.getLsbD (i - 28) := by
  show BitVec.getLsbD (w := 4 + 4 + 24) (rc.bits ++ 0#4 ++ data) i = _
  rw [BitVec.getLsbD_append, BitVec.getLsbD_append]
  by_cases h1 : i < 24
  · simp [h1]
  · by_cases h2 : i < 28
    · simp [h1, h2, show i - 24 < 4 by omega]
    · simp [h1, h2, show ¬ i - 24 < 4 by omega, Nat.sub_sub]

@[simp] theorem responseCode_responseWord (rc : ResultCode) (data : Acc) :
    responseCode (responseWord rc data) = rc.bits := by
  apply BitVec.eq_of_getLsbD_eq
  intro i hi
  simp only [responseCode, BitVec.getLsbD_extractLsb', responseWord_getLsbD]
  simp [hi, show ¬ 28 + i < 24 by omega]

theorem responseByte_responseWord (rc : ResultCode) (b : Byte) :
    responseByte (responseWord rc (b.setWidth 24)) = b := by
  apply BitVec.eq_of_getLsbD_eq
  intro i hi
  simp only [responseByte, BitVec.getLsbD_extractLsb', responseWord_getLsbD]
  simp [hi, show i < 24 by omega]

theorem legalResponse_responseWord (rc : ResultCode) (data : Acc) : legalResponse (responseWord rc data) = true := by
  have h : (responseWord rc data).extractLsb' 24 4 = 0#4 := by
    apply BitVec.eq_of_getLsbD_eq
    intro i hi
    simp only [BitVec.getLsbD_extractLsb', responseWord_getLsbD]
    simp [show 24 + i < 28 by omega]
  simp only [legalResponse, h, responseCode_responseWord]
  cases rc <;> decide
end Sys2Proof.Machine
end

