-- ==== Sys2Proof/Laws/Decoder.lean ====
section
/-!
SUPPORT. What the symbol fetch and the group fetch can do, said once (spec 42_decoder.md R150 to R153).
-/

namespace Sys2Proof.Machine

/-! ## Classification (R150) -/

theorem classify_skip_iff (c : Cfg) (b : Byte) : classify c b = .skip ↔ isSkip b = true := by
  unfold classify
  split
  · simp_all
  · split
    · simp_all
    · split <;> simp_all

theorem classify_pad_iff (c : Cfg) (b : Byte) : classify c b = .pad ↔ isSkip b = false ∧ isPad c b = true := by
  unfold classify
  split
  · simp_all
  · split
    · simp_all
    · split <;> simp_all

theorem classify_sym_iff (c : Cfg) (b : Byte) (v : SymVal) :
    classify c b = .sym v ↔ isSkip b = false ∧ isPad c b = false ∧ decodeSymbol c b = some v := by
  unfold classify
  split
  · simp_all
  · split
    · simp_all
    · split <;> simp_all

theorem classify_invalid_iff (c : Cfg) (b : Byte) :
    classify c b = .invalid ↔ isSkip b = false ∧ isPad c b = false ∧ decodeSymbol c b = none := by
  unfold classify
  split
  · simp_all
  · split
    · simp_all
    · split <;> simp_all

/-! ## Symbol fetch (R151) -/

theorem takeSymbol_skips (c : Cfg) (gap : List Byte) (rest : List InItem) (h : ∀ b ∈ gap, isSkip b = true) :
    takeSymbol c (inBytes gap ++ rest) = takeSymbol c rest := by
  induction gap with
  | nil => rfl
  | cons b gap ih =>
    have hb := (classify_skip_iff c b).2 (h b (by simp))
    show takeSymbol c (.byte b :: (inBytes gap ++ rest)) = _
    rw [takeSymbol, hb]
    exact ih fun x hx => h x (by simp [hx])

theorem takeSymbol_sym (c : Cfg) (b : Byte) (v : SymVal) (rest : List InItem) (h : classify c b = .sym v) :
    takeSymbol c (.byte b :: rest) = ⟨.sym v, false, rest⟩ := by
  rw [takeSymbol, h]

theorem takeSymbol_pad (c : Cfg) (b : Byte) (rest : List InItem) (h : classify c b = .pad) :
    takeSymbol c (.byte b :: rest) = ⟨.eod, true, rest⟩ := by
  rw [takeSymbol, h]

theorem takeSymbol_invalid (c : Cfg) (b : Byte) (rest : List InItem) (h : classify c b = .invalid) :
    takeSymbol c (.byte b :: rest) = ⟨.invalid, false, rest⟩ := by
  rw [takeSymbol, h]

theorem takeSymbol_endOfStream (c : Cfg) (rest : List InItem) :
    takeSymbol c (.endOfStream :: rest) = ⟨.eod, true, rest⟩ := rfl

@[simp] theorem nextSymbol_exhausted (c : Cfg) (inp : List InItem) : nextSymbol c true inp = ⟨.eod, true, inp⟩ := rfl

@[simp] theorem nextSymbol_fresh (c : Cfg) (inp : List InItem) : nextSymbol c false inp = takeSymbol c inp := rfl

/-- The items a symbol fetch leaves are the tail of what there was: items are taken in order, each at most once (R52). -/
theorem takeSymbol_suffix (c : Cfg) (inp : List InItem) : (takeSymbol c inp).inp <:+ inp := by
  induction inp with
  | nil => exact List.suffix_refl _
  | cons it rest ih =>
    have hc : rest <:+ it :: rest := List.suffix_cons _ _
    cases it with
    | endOfStream => exact hc
    | byte b =>
      unfold takeSymbol
      split
      · exact ih.trans hc
      all_goals exact hc

/-- A symbol fetch that waits has taken every item (R53). -/
theorem takeSymbol_wait_inp (c : Cfg) (inp : List InItem) (h : (takeSymbol c inp).verdict = .wait) :
    (takeSymbol c inp).inp = [] ∧ (takeSymbol c inp).exhausted = false := by
  induction inp with
  | nil => exact ⟨rfl, rfl⟩
  | cons it rest ih =>
    cases it with
    | endOfStream => simp [takeSymbol] at h
    | byte b =>
      unfold takeSymbol at h ⊢
      split at h <;> simp_all

theorem nextSymbol_suffix (c : Cfg) (e : Bool) (inp : List InItem) : (nextSymbol c e inp).inp <:+ inp := by
  cases e
  · exact takeSymbol_suffix c inp
  · exact List.suffix_refl _

/-- What follows a wait is what one fetch over all the items would have done (R53, R59). -/
theorem takeSymbol_append_of_wait (c : Cfg) (a b : List InItem) (h : (takeSymbol c a).verdict = .wait) :
    takeSymbol c (a ++ b) = takeSymbol c b := by
  induction a with
  | nil => rfl
  | cons it rest ih =>
    cases it with
    | endOfStream => simp [takeSymbol] at h
    | byte x =>
      unfold takeSymbol at h
      show takeSymbol c (.byte x :: (rest ++ b)) = _
      rw [takeSymbol]
      split at h <;> simp_all

/-- Once a symbol fetch has its verdict, items delivered later stay in the channel (R52). -/
theorem takeSymbol_append_of_not_wait (c : Cfg) (a b : List InItem) (h : (takeSymbol c a).verdict ≠ .wait) :
    takeSymbol c (a ++ b) =
      ⟨(takeSymbol c a).verdict, (takeSymbol c a).exhausted, (takeSymbol c a).inp ++ b⟩ := by
  induction a with
  | nil => simp [takeSymbol] at h
  | cons it rest ih =>
    cases it with
    | endOfStream => rfl
    | byte x =>
      unfold takeSymbol at h
      show takeSymbol c (.byte x :: (rest ++ b)) = _
      rw [takeSymbol, takeSymbol]
      split at h <;> simp_all

/-! ## Group fetch (R152, R153) -/

theorem fetchGroup_suffix (c : Cfg) (todo : Nat) (vs : List SymVal) (e : Bool) (inp : List InItem) :
    (fetchGroup c todo vs e inp).inp <:+ inp := by
  induction todo generalizing vs e inp with
  | zero => exact List.suffix_refl _
  | succ todo ih =>
    unfold fetchGroup
    have h := nextSymbol_suffix c e inp
    dsimp only
    split
    · exact (ih _ _ _).trans h
    all_goals exact h

/-- One symbol, the skip bytes before it included, is fetched and the loop goes on. -/
theorem fetchGroup_sym (c : Cfg) (todo : Nat) (vs : List SymVal) (gap : List Byte) (b : Byte) (v : SymVal)
    (rest : List InItem) (hg : ∀ x ∈ gap, isSkip x = true) (hb : classify c b = .sym v) :
    fetchGroup c (todo + 1) vs false (inBytes gap ++ .byte b :: rest) = fetchGroup c todo (vs ++ [v]) false rest := by
  rw [fetchGroup, nextSymbol_fresh, takeSymbol_skips _ _ _ hg, takeSymbol_sym c b v rest hb]

end Sys2Proof.Machine
end

