-- ==== Sys2Proof/Laws/Encoding.lean ====
section
/-!
SUPPORT. The three fields of a command word (spec 30_encoding.md R70): a word is its fields side by side.
-/

namespace Sys2Proof

/-- A command word as a number: its three fields side by side. -/
theorem commandWord_toNat (op idx : BitVec 4) (imm : BitVec 24) :
    (commandWord op idx imm).toNat = op.toNat * 0x10000000 + idx.toNat * 0x1000000 + imm.toNat := by
  show ((op ++ idx : BitVec 8) ++ imm : BitVec 32).toNat = _
  rw [BitVec.toNat_append, BitVec.toNat_append, ← Nat.shiftLeft_add_eq_or_of_lt imm.isLt,
    ← Nat.shiftLeft_add_eq_or_of_lt idx.isLt, Nat.shiftLeft_eq, Nat.shiftLeft_eq]
  omega

theorem opField_toNat (w : Word) : (opField w).toNat = w.toNat / 0x10000000 := by
  have h := w.isLt
  rw [opField, BitVec.extractLsb'_toNat, Nat.shiftRight_eq_div_pow]
  omega

theorem idxField_toNat (w : Word) : (idxField w).toNat = w.toNat / 0x1000000 % 0x10 := by
  rw [idxField, BitVec.extractLsb'_toNat, Nat.shiftRight_eq_div_pow]

theorem immField_toNat (w : Word) : (immField w).toNat = w.toNat % 0x1000000 := by
  rw [immField, BitVec.extractLsb'_toNat, Nat.shiftRight_eq_div_pow]
  simp

@[simp] theorem opField_commandWord (op idx : BitVec 4) (imm : BitVec 24) : opField (commandWord op idx imm) = op := by
  apply BitVec.eq_of_toNat_eq
  rw [opField_toNat, commandWord_toNat]
  have := imm.isLt; have := idx.isLt; have := op.isLt
  omega

@[simp] theorem idxField_commandWord (op idx : BitVec 4) (imm : BitVec 24) : idxField (commandWord op idx imm) = idx := by
  apply BitVec.eq_of_toNat_eq
  rw [idxField_toNat, commandWord_toNat]
  have := imm.isLt; have := idx.isLt; have := op.isLt
  omega

@[simp] theorem immField_commandWord (op idx : BitVec 4) (imm : BitVec 24) : immField (commandWord op idx imm) = imm := by
  apply BitVec.eq_of_toNat_eq
  rw [immField_toNat, commandWord_toNat]
  have := imm.isLt; have := idx.isLt; have := op.isLt
  omega

/-- Every word is the command word of its fields. -/
theorem commandWord_fields (w : Word) : commandWord (opField w) (idxField w) (immField w) = w := by
  apply BitVec.eq_of_toNat_eq
  rw [commandWord_toNat, opField_toNat, idxField_toNat, immField_toNat]
  have := w.isLt
  omega

theorem wordWellFormed_fields (w : Word) :
    wordWellFormed w = fieldsWellFormed (opField w).toNat (idxField w).toNat (immField w).toNat := by
  rw [opField_toNat, idxField_toNat, immField_toNat, wordWellFormed]

/-! ## Operands of IMM (R73, R77) -/

theorem byteOperand_some_iff (imm : BitVec 24) (b : Byte) : byteOperand imm = some b ↔ imm = b.setWidth 24 := by
  have hb := b.isLt
  have hi := imm.isLt
  have hz : imm.extractLsb' 8 16 = 0 ↔ imm.toNat < 256 := by
    rw [← BitVec.toNat_inj, BitVec.extractLsb'_toNat, Nat.shiftRight_eq_div_pow]
    simp; omega
  have he : imm = b.setWidth 24 ↔ imm.toNat = b.toNat := by
    rw [← BitVec.toNat_inj, BitVec.toNat_setWidth]
    constructor <;> intro h <;> omega
  have hx : imm.extractLsb' 0 8 = b ↔ imm.toNat % 256 = b.toNat := by
    rw [← BitVec.toNat_inj, BitVec.extractLsb'_toNat]; simp
  unfold byteOperand
  split <;> rename_i h <;> rw [hz] at h <;> simp [he, hx] <;> omega

theorem lineLenOperand_some_iff (imm : BitVec 24) (v : LineLen) : lineLenOperand imm = some v ↔ imm = v.setWidth 24 := by
  have hb := v.isLt
  have hi := imm.isLt
  have hz : imm.extractLsb' 16 8 = 0 ↔ imm.toNat < 65536 := by
    rw [← BitVec.toNat_inj, BitVec.extractLsb'_toNat, Nat.shiftRight_eq_div_pow]
    simp; omega
  have he : imm = v.setWidth 24 ↔ imm.toNat = v.toNat := by
    rw [← BitVec.toNat_inj, BitVec.toNat_setWidth]
    constructor <;> intro h <;> omega
  have hx : imm.extractLsb' 0 16 = v ↔ imm.toNat % 65536 = v.toNat := by
    rw [← BitVec.toNat_inj, BitVec.extractLsb'_toNat]; simp
  unfold lineLenOperand
  split <;> rename_i h <;> rw [hz] at h <;> simp [he, hx] <;> omega

theorem maskOperand_some_iff (imm : BitVec 24) (m : BitVec 3) : maskOperand imm = some m ↔ imm = m.setWidth 24 := by
  have hb := m.isLt
  have hi := imm.isLt
  have hz : imm.extractLsb' 3 21 = 0 ↔ imm.toNat < 8 := by
    rw [← BitVec.toNat_inj, BitVec.extractLsb'_toNat, Nat.shiftRight_eq_div_pow]
    simp; omega
  have he : imm = m.setWidth 24 ↔ imm.toNat = m.toNat := by
    rw [← BitVec.toNat_inj, BitVec.toNat_setWidth]
    constructor <;> intro h <;> omega
  have hx : imm.extractLsb' 0 3 = m ↔ imm.toNat % 8 = m.toNat := by
    rw [← BitVec.toNat_inj, BitVec.extractLsb'_toNat]; simp
  unfold maskOperand
  split <;> rename_i h <;> rw [hz] at h <;> simp [he, hx] <;> omega

/-- The register map is one to one (R80). -/
theorem regAt_some_iff (idx : BitVec 4) (r : Reg) : regAt idx = some r ↔ idx = r.index := by
  revert idx; cases r <;> decide

end Sys2Proof
end

