-- ==== Sys2Proof/Laws/PerInstr.lean ====
section
/-!
SUPPORT. Statements made for every command, one lemma per constructor of Instr.
-/

/-- The word of a command is a legal word: it keeps the field constraints of rule R77. -/
def Sys2Proof.Laws.EncodedWordLegal.Statement (i : Sys2Proof.Instr) : Prop :=
  Sys2Proof.wordWellFormed (Sys2Proof.encode i) = true

namespace Sys2Proof.Laws.EncodedWordLegal

open Sys2Proof

theorem nop : Statement .nop := by unfold Statement; decide
theorem encFlush : Statement .encFlush := by unfold Statement; decide
theorem encFinalize : Statement .encFinalize := by unfold Statement; decide
theorem decRead : Statement .decRead := by unfold Statement; decide
theorem decHasMore : Statement .decHasMore := by unfold Statement; decide
theorem cfgReadSym62 : Statement .cfgReadSym62 := by unfold Statement; decide
theorem cfgReadSym63 : Statement .cfgReadSym63 := by unfold Statement; decide
theorem cfgReadPad : Statement .cfgReadPad := by unfold Statement; decide
theorem cfgReadLineLen : Statement .cfgReadLineLen := by unfold Statement; decide
theorem cfgReadLineThresh : Statement .cfgReadLineThresh := by unfold Statement; decide
theorem cfgReadEncState : Statement .cfgReadEncState := by unfold Statement; decide
theorem cfgReadEncAcc : Statement .cfgReadEncAcc := by unfold Statement; decide
theorem cfgReadDecState : Statement .cfgReadDecState := by unfold Statement; decide
theorem cfgReadDecAcc : Statement .cfgReadDecAcc := by unfold Statement; decide
theorem cfgReadId : Statement .cfgReadId := by unfold Statement; decide

theorem encWrite (b : Byte) : Statement (.encWrite b) := by
  have := b.isLt
  simp [Statement, encode, wordWellFormed_fields, fieldsWellFormed]
  omega

theorem cfgWriteSym62 (val : Byte) : Statement (.cfgWriteSym62 val) := by
  have := val.isLt
  simp [Statement, encode, wordWellFormed_fields, fieldsWellFormed, Reg.index]
  omega

theorem cfgWriteSym63 (val : Byte) : Statement (.cfgWriteSym63 val) := by
  have := val.isLt
  simp [Statement, encode, wordWellFormed_fields, fieldsWellFormed, Reg.index]
  omega

theorem cfgWritePad (val : Byte) : Statement (.cfgWritePad val) := by
  have := val.isLt
  simp [Statement, encode, wordWellFormed_fields, fieldsWellFormed, Reg.index]
  omega

theorem cfgWriteLineLen (val : LineLen) : Statement (.cfgWriteLineLen val) := by
  have := val.isLt
  simp [Statement, encode, wordWellFormed_fields, fieldsWellFormed, Reg.index]
  omega

theorem srst (m : BitVec 3) : Statement (.srst m) := by
  have := m.isLt
  simp [Statement, encode, wordWellFormed_fields, fieldsWellFormed]
  omega

end Sys2Proof.Laws.EncodedWordLegal
end

