-- ==== Sys2Proof/Laws/Step.lean ====
section
/-!
SUPPORT. Everything one step can do, said once (spec 20_memory.md R60, R62; 70_reset_and_hazards.md R240).
-/

namespace Sys2Proof.Machine

/-- Everything one step can do: a reset edge, a wait for a command, a command word that is accepted (a command's meaning,
or Illegal), or the command in progress going on. -/
theorem step_cases {s t : State} (h : step s = .next t) :
    (s.rst = true ∧ t = resetEdge s) ∨
    (s.rst = false ∧ s.progress = .idle ∧ s.cmds = [] ∧ t = s) ∨
    (∃ w rest i, s.accepting w rest ∧ decode w = .ok i ∧ exec i { s with cmds := rest } = .next t) ∨
    (∃ w rest e, s.accepting w rest ∧ decode w = .error e ∧ t = raise .illegal { s with cmds := rest }) ∨
    (∃ syms, s.rst = false ∧ s.progress = .fetch syms ∧ t = continueRead syms s) ∨
    (s.rst = false ∧ s.progress = .peek ∧ t = continuePeek s) ∨
    (∃ items, s.rst = false ∧ s.progress = .emit items ∧ t = emitThenOk items s) ∨
    (∃ w, s.rst = false ∧ s.progress = .respond w ∧ t = sendResponse w s) := by
  cases hr : s.rst with
  | true => simp [step, hr] at h; exact .inl ⟨rfl, h.symm⟩
  | false =>
    right
    cases hp : s.progress with
    | idle =>
      cases hc : s.cmds with
      | nil =>
        simp [step, hr, hp, acceptCommand, takeCommand, hc] at h
        exact .inl ⟨rfl, rfl, rfl, h.symm⟩
      | cons w rest =>
        cases hd : decode w with
        | ok i =>
          simp only [step, hr, hp, acceptCommand, takeCommand, hc, runWord, hd] at h
          exact .inr (.inl ⟨w, rest, i, ⟨hr, hp, hc⟩, hd, h⟩)
        | error e =>
          simp only [step, hr, hp, acceptCommand, takeCommand, hc, runWord, hd] at h
          injection h with h
          exact .inr (.inr (.inl ⟨w, rest, e, ⟨hr, hp, hc⟩, hd, h.symm⟩))
    | fetch syms =>
      simp [step, hr, hp] at h
      exact .inr (.inr (.inr (.inl ⟨syms, rfl, rfl, h.symm⟩)))
    | peek =>
      simp [step, hr, hp] at h
      exact .inr (.inr (.inr (.inr (.inl ⟨rfl, rfl, h.symm⟩))))
    | emit items =>
      simp [step, hr, hp, resumeEmit] at h
      exact .inr (.inr (.inr (.inr (.inr (.inl ⟨items, rfl, rfl, h.symm⟩)))))
    | respond w =>
      simp [step, hr, hp] at h
      exact .inr (.inr (.inr (.inr (.inr (.inr ⟨w, rfl, rfl, h.symm⟩)))))

/-- A command word that decodes runs as its command. -/
theorem step_of_accepting {s : State} {w : Word} {rest : List Word} {i : Instr} (ha : s.accepting w rest)
    (hd : decode w = .ok i) : step s = exec i { s with cmds := rest } := by
  obtain ⟨hr, hp, hc⟩ := ha
  simp [step, hr, hp, acceptCommand, takeCommand, hc, runWord, hd]

/-- A command word that does not decode raises Illegal (R211). -/
theorem step_of_accepting_error {s : State} {w : Word} {rest : List Word} {e : DecodeError} (ha : s.accepting w rest)
    (hd : decode w = .error e) : step s = .next (raise .illegal { s with cmds := rest }) := by
  obtain ⟨hr, hp, hc⟩ := ha
  simp [step, hr, hp, acceptCommand, takeCommand, hc, runWord, hd]

end Sys2Proof.Machine
end

