-- ==== Sys2Proof/Tests/Slice0.lean ====
section
/-!
SUPPORT. Tests with expected values from the spec's own encodings and vectors (30_encoding.md R76, R85 to R88;
95_test_vectors.md, whose row each test names), and for every obligation with hypotheses a state and operands that
meet them all.
-/

namespace Sys2Proof.Tests

open Sys2Proof Sys2Proof.Machine

/-! ## Helpers -/

/-- The next state of an outcome. -/
def after (o : Host.Outcome State Fault Refusal) : State :=
  match o with
  | .next t => t
  | .fault _ => State.reset
  | .refused _ => State.reset

/-- The responses of a command. -/
def answers (i : Instr) (s : State) : List Word := (after (exec i s)).rsp

/-- An encoder with some of a group in it. -/
def encAt (acc : Acc) (step : EncStep) : State := { State.reset with enc := { acc, step, linecnt := 0 } }

/-- The input channel holds bytes, then END. -/
def input (bs : List Byte) : State := { State.reset with inp := inBytes bs ++ [.endOfStream] }

/-- The next command is `w`. -/
def command (w : Word) : State := { State.reset with cmds := [w] }

/-- A decoder that has met an invalid symbol. -/
def faulted : State := { State.reset with dec := { Dec.reset with err := true } }

/-- A decoder with "Man" assembled and its first byte returned (P3). -/
def pendingMan : State := { State.reset with dec := { Dec.reset with acc := 0x4D616E, fill := 3, step := 1 } }

/-- A decoder at the end of its stream. -/
def exhausted : State := { State.reset with dec := { Dec.reset with exhausted := true } }

/-- "TWFu" as symbols, a CR LF before the third (D11). -/
def runTWFu : SymRun := [([], 0x54, 19), ([], 0x57, 22), ([0x0D, 0x0A], 0x46, 5), ([], 0x75, 46)]

/-! ## WellFormed: an ill-formed term for each check -/

theorem test_illformed_bare_words : [0x00000001#32, 0x01000000, 0x20000001, 0x21000000, 0x30000001, 0x31000000,
    0x40000001, 0x41000000, 0x50000001, 0x51000000].all (fun w => !wordWellFormed w) = true := by decide

/-- X3, X4. -/
theorem test_illformed_enc_write : wordWellFormed 0x10000100 = false ∧ wordWellFormed 0x11000041 = false := by decide

/-- X6, X7, X8 and the reserved index 0xA. -/
theorem test_illformed_cfg_write : [0x6400000C#32, 0x62000100, 0x60000100, 0x61000100, 0x63010000, 0x6A000000].all
    (fun w => !wordWellFormed w) = true := by decide

/-- X9, X10. -/
theorem test_illformed_cfg_read : wordWellFormed 0x7A000000 = false ∧ wordWellFormed 0x70000001 = false := by decide

/-- X11, X12. -/
theorem test_illformed_srst : wordWellFormed 0x80000008 = false ∧ wordWellFormed 0x81000000 = false := by decide

/-- X1, X2. -/
theorem test_illformed_opcode : wordWellFormed 0x90000000 = false ∧ wordWellFormed 0xF1234567 = false := by decide

theorem test_wellformed_limits : [0x100000FF#32, 0x620000FF, 0x6300FFFF, 0x79000000, 0x80000007].all wordWellFormed =
    true := by decide

theorem test_illformed_lines : [AsmLine.encWrite 256, .cfgWrite .lineLen 65536, .cfgWrite .pad 256,
    .cfgWrite .lineThresh 0, .cfgWrite .id 0, .word 0x100000000, .encWriteN [1, 256], .cfgInit 256 0 0 0,
    .cfgInit 0 256 0 0, .cfgInit 0 0 256 0, .cfgInit 0 0 0 65536].all (fun l => !l.wellFormed) = true := by decide

/-! ## Decoding: every constructor's word, written out from R76 -/

theorem test_decode_bare : decode 0x00000000 = .ok .nop ∧ decode 0x20000000 = .ok .encFlush ∧
    decode 0x30000000 = .ok .encFinalize ∧ decode 0x40000000 = .ok .decRead ∧ decode 0x50000000 = .ok .decHasMore := by
  decide

theorem test_decode_enc_write : decode 0b0001_0000_0000_0000_0000_0000_0100_1101 = .ok (.encWrite 0x4D) := by decide

theorem test_decode_cfg_write : decode 0x6000002D = .ok (.cfgWriteSym62 0x2D) ∧
    decode 0x6100005F = .ok (.cfgWriteSym63 0x5F) ∧ decode 0x6200002E = .ok (.cfgWritePad 0x2E) ∧
    decode 0b0110_0011_0000_0000_0000_0000_0100_1100 = .ok (.cfgWriteLineLen 76) := by decide

theorem test_decode_cfg_read : decode 0x70000000 = .ok .cfgReadSym62 ∧ decode 0x71000000 = .ok .cfgReadSym63 ∧
    decode 0x72000000 = .ok .cfgReadPad ∧ decode 0x73000000 = .ok .cfgReadLineLen ∧
    decode 0x74000000 = .ok .cfgReadLineThresh ∧ decode 0x75000000 = .ok .cfgReadEncState ∧
    decode 0x76000000 = .ok .cfgReadEncAcc ∧ decode 0b0111_0111_0000_0000_0000_0000_0000_0000 = .ok .cfgReadDecState ∧
    decode 0x78000000 = .ok .cfgReadDecAcc ∧ decode 0x79000000 = .ok .cfgReadId := by decide

theorem test_decode_srst : decode 0b1000_0000_0000_0000_0000_0000_0000_0011 = .ok (.srst 0b011) := by decide

/-- X1, X9, X6, X3: rejected by the name of the cause. -/
theorem test_decode_rejects : decode 0x90000000 = .error .reservedOpcode ∧ decode 0x7A000000 = .error .reservedIndex ∧
    decode 0x6400000C = .error .readOnlyIndex ∧ decode 0x10000100 = .error .reservedBits := by decide

theorem test_decode_table_word : decodeTableWord 32 0x6300004C = some (.cfgWriteLineLen 76) ∧
    decodeTableWord 32 0xF0000000 = none ∧ decodeTableWord 40 0 = none := by decide

theorem test_opcode_map_disjoint : opcodeMap.Pairwise (fun a b => a.disjoint b = true) := by decide

/-! ## Alphabet -/

/-- A1 to A3. -/
theorem test_encode_symbol : [0#6, 25, 26, 51, 52, 61, 62, 63].map (encodeSymbol Cfg.reset) =
    [0x41#8, 0x5A, 0x61, 0x7A, 0x30, 0x39, 0x2B, 0x2F] := by decide

/-- A5, A6. -/
theorem test_decode_symbol : [0x41#8, 0x7A, 0x30, 0x2B, 0x2F, 0x2D, 0x3D, 0x7F, 0x80, 0x00].map
    (decodeSymbol Cfg.reset) = [some 0#6, some 51, some 52, some 62, some 63, none, none, none, none, none] := by decide

/-- A8, A9. -/
theorem test_decode_symbol_collisions : decodeSymbol { Cfg.reset with sym62 := 0x41 } 0x41 = some 0 ∧
    decodeSymbol { Cfg.reset with sym62 := 0x2D, sym63 := 0x2D } 0x2D = some 62 := by decide

/-! ## One step of each command -/

/-- K1. -/
theorem test_nop : answers .nop State.reset = [0x00000000] := by decide

/-- R122's example. -/
theorem test_enc_write_second : (after (exec (.encWrite 0x61) (encAt 0x4D0000 .one))).enc =
    { acc := 0x4D6100, step := .two, linecnt := 0 } := by decide

/-- E14: the symbols of "Man", then CR LF. -/
theorem test_enc_write_third : (after (exec (.encWrite 0x6E)
    { encAt 0x4D6100 .two with cfg := { Cfg.reset with lineLen := 4 } })).out =
    [.byte 0x54, .byte 0x57, .byte 0x46, .byte 0x75, .byte 0x0D, .byte 0x0A] := by decide

/-- E27. -/
theorem test_enc_flush : (after (exec .encFlush (encAt 0x4D0000 .one))).out = [.flush] ∧
    (after (exec .encFlush (encAt 0x4D0000 .one))).enc.step = .one := by decide

/-- S3. -/
theorem test_enc_finalize_one : (after (exec .encFinalize (encAt 0x4D0000 .one))).out =
    [.byte 0x54, .byte 0x51, .byte 0x3D, .byte 0x3D, .endOfStream] := by decide

/-- E11. -/
theorem test_enc_finalize_two : (after (exec .encFinalize
    { encAt 0x4D6100 .two with cfg := { Cfg.reset with pad := 0 } })).out =
    [.byte 0x54, .byte 0x57, .byte 0x45, .endOfStream] := by decide

/-- P3, line 6: " TQ==", four items taken. -/
theorem test_dec_read_partial : answers .decRead (input [0x20, 0x54, 0x51, 0x3D, 0x3D]) = [0x1000004D] ∧
    (after (exec .decRead (input [0x20, 0x54, 0x51, 0x3D, 0x3D]))).inp = [.byte 0x3D, .endOfStream] := by decide

/-- D15: a fault in mid-group. -/
theorem test_dec_read_fault : answers .decRead (input [0x54, 0x57, 0x23, 0x46]) = [0x90000000] ∧
    (after (exec .decRead (input [0x54, 0x57, 0x23, 0x46]))).inp = [.byte 0x46, .endOfStream] := by decide

/-- H2: CR is the next byte. -/
theorem test_dec_has_more_byte : answers .decHasMore (input [0x0D]) = [0x00000001] := by decide

/-- H3: END is taken. -/
theorem test_dec_has_more_end : answers .decHasMore (input []) = [0x00000000] ∧
    (after (exec .decHasMore (input []))).dec.exhausted = true := by decide

theorem test_cfg_write_sym62 : (after (exec (.cfgWriteSym62 0x2D) State.reset)).cfg =
    { sym62 := 0x2D, sym63 := 0x2F, pad := 0x3D, lineLen := 0 } := by decide

theorem test_cfg_write_sym63 : (after (exec (.cfgWriteSym63 0x5F) State.reset)).cfg =
    { sym62 := 0x2B, sym63 := 0x5F, pad := 0x3D, lineLen := 0 } := by decide

theorem test_cfg_write_pad : (after (exec (.cfgWritePad 0x2E) State.reset)).cfg =
    { sym62 := 0x2B, sym63 := 0x2F, pad := 0x2E, lineLen := 0 } := by decide

theorem test_cfg_write_line_len : (after (exec (.cfgWriteLineLen 0xFFFF) State.reset)).cfg =
    { sym62 := 0x2B, sym63 := 0x2F, pad := 0x3D, lineLen := 0xFFFF } := by decide

/-- K2, K3, K8. -/
theorem test_cfg_read_configuration : answers .cfgReadSym62 State.reset = [0x0000002B] ∧
    answers .cfgReadSym63 State.reset = [0x0000002F] ∧ answers .cfgReadPad State.reset = [0x0000003D] ∧
    answers .cfgReadLineLen State.reset = [0] ∧ answers .cfgReadId State.reset = [0x000B6407] := by decide

/-- K4: the threshold of 65535 needs 17 bits. -/
theorem test_cfg_read_line_thresh :
    answers .cfgReadLineThresh { State.reset with cfg := { Cfg.reset with lineLen := 0xFFFF } } = [0x00010000] := by
  decide

/-- E30, E26. -/
theorem test_cfg_read_encoder :
    answers .cfgReadEncState { State.reset with enc := { acc := 0x646500, step := .two, linecnt := 4 } } = [0x00000012] ∧
    answers .cfgReadEncAcc (encAt 0x4D0000 .one) = [0x004D0000] := by decide

/-- X13, and P3's line 5 read back from R38. -/
theorem test_cfg_read_decoder : answers .cfgReadDecState faulted = [0x00000020] ∧
    answers .cfgReadDecState pendingMan = [0x00000007] ∧ answers .cfgReadDecAcc pendingMan = [0x004D616E] := by decide

/-- K9. -/
theorem test_srst_cfg : (after (exec (.srst 4) { State.reset with cfg := { Cfg.reset with pad := 0x2E } })).cfg.pad =
    0x3D := by decide

/-- X17. -/
theorem test_srst_dec : (after (exec (.srst 2) faulted)).dec.err = false := by decide

/-- X15: Illegal comes before the sticky error. -/
theorem test_illegal_first : (after (step { faulted with cmds := [0x40000001] })).rsp = [0x80000000] := by decide

/-- The next step of `withFetchWord` runs the word. -/
theorem test_with_fetch_word : (after (step (State.reset.withFetchWord 32 0x79000000))).rsp = [0x000B6407] := by decide

/-! ## Assembler -/

/-- R88's examples. -/
theorem test_assemble : assembleText "ENC_WRITE 'M'" = some [0x1000004D#32] ∧
    assembleText "CFG_WRITE LINE_LEN, 76" = some [0x6300004C#32] ∧
    assembleText "SRST ENC|DEC" = some [0x80000003#32] := by decide

/-- R85: a value that does not fit, a read-only register, a lower-case mnemonic. -/
theorem test_assemble_refuses : assembleText "ENC_WRITE 256" = none ∧ assembleText "CFG_WRITE ID, 0" = none ∧
    assembleText "nop" = none := by decide

/-- One command per line, and a comment (P1's first two commands). -/
theorem test_assemble_lines : assembleLines ["ENC_WRITE 'M'", "; a comment", "ENC_WRITE 'a'"] =
    some [0x1000004D#32, 0x10000061#32] := by decide

/-- Log entry 14: a repeated mask name, a backslash and a semicolon in a string, no blank before a literal. -/
theorem test_assemble_choices : assembleText "SRST ENC|ENC" = some [0x80000001#32] ∧
    assembleText "ENC_WRITEN \"\\;\"" = some [0x1000005C#32, 0x1000003B#32] ∧
    assembleText "ENC_WRITE'M'" = some [0x1000004D#32] := by decide

/-! ## Witnesses: states and operands that meet the hypotheses of an obligation -/

theorem witness_accepting : (command 0x1000004D).accepting 0x1000004D [] ∧ decode 0x1000004D = .ok (.encWrite 0x4D) :=
  ⟨⟨rfl, rfl, rfl⟩, by decide⟩

/-- BusyCoreTakesNoCommand, and with it a core that waits in each of the four ways. -/
theorem witness_busy : (∀ p ∈ [Progress.fetch [19], .peek, .emit [.flush], .respond 0],
      ({ command 0x00000000 with progress := p } : State).progress ≠ .idle) ∧
    ∃ t, step { command 0x00000000 with progress := .peek } = .next t ∧ t.progress = .peek :=
  ⟨by decide, _, rfl, by decide⟩

theorem witness_EachCommandHasOneResponse : (command 0x00000000).rst = false ∧
    ∃ t, step (command 0x00000000) = .next t ∧ t.rsp = [0x00000000] ∧ t.cmds = [] :=
  ⟨rfl, _, rfl, by decide⟩

theorem witness_EncodeOfDecodedWordIsSame : decode 0x6300FFFF = .ok (.cfgWriteLineLen 0xFFFF) := by decide

/-- MalformedWordRaisesIllegal, WordIsOneRowOrIllegal and the malformed clause of every opcode. -/
theorem witness_malformed : [0x00000001#32, 0x10000100, 0x20000001, 0x30000001, 0x40000001, 0x50000001, 0x62000100,
    0x70000001, 0x80000008].map (fun w => (opField w, wordWellFormed w)) =
    [(0, false), (1, false), (2, false), (3, false), (4, false), (5, false), (6, false), (7, false), (8, false)] := by
  decide

theorem witness_ReservedOpcode : 9 ≤ (opField 0x90000000).toNat ∧ 9 ≤ (opField 0xF1234567).toNat := by decide

/-- Both clauses at the lowest and the highest index. -/
theorem witness_ReservedIndex : (opField 0x64000000 = 6#4 ∧ 4 ≤ (idxField 0x64000000).toNat) ∧
    (opField 0x6F000000 = 6#4 ∧ 4 ≤ (idxField 0x6F000000).toNat) ∧
    (opField 0x7A000000 = 7#4 ∧ 10 ≤ (idxField 0x7A000000).toNat) ∧
    (opField 0x7F000000 = 7#4 ∧ 10 ≤ (idxField 0x7F000000).toNat) := by decide

/-- A word that raises Illegal, its response taken and its response held. -/
theorem witness_raisesIllegal : (command 0x90000000).accepting 0x90000000 [] ∧
    (command 0x90000000).rspReady.accepts 1 = true ∧
    ({ command 0x90000000 with rspReady := .times 0 } : State).accepting 0x90000000 [] ∧
    Ready.accepts (.times 0) 1 = false := ⟨⟨rfl, rfl, rfl⟩, rfl, ⟨rfl, rfl, rfl⟩, rfl⟩

/-- ResponsesAreLegalWords and StepKeepsMachineInvariant: a state with a history and a command in progress. -/
theorem witness_inv : ({ pendingMan with rsp := [0x1000004D], progress := .respond 0x80000000 } : State).inv = true ∧
    (∀ w ∈ [0x1000004D#32], legalResponse w = true) ∧
    ({ State.reset with progress := .fetch [19, 22, 5] } : State).inv = true ∧
    ({ State.reset with progress := .peek } : State).inv = true ∧
    ({ State.reset with progress := .emit [.endOfStream] } : State).inv = true :=
  ⟨by decide, List.forall_mem_singleton.mpr (by decide), by decide, by decide, by decide⟩

/-- The hypotheses of the control commands, of an environment that takes one response and of one that takes every. -/
theorem witness_response_taken : State.reset.rspReady.accepts 1 = true ∧
    ({ State.reset with rspReady := .times 1 } : State).rspReady.accepts 1 = true := by decide

theorem witness_ConfigurationChanges : (∃ t, step (command 0x6200002E) = .next t ∧ t.cfg ≠ (command 0x6200002E).cfg) ∧
    ∃ t, step { State.reset with cfg := { Cfg.reset with pad := 0 }, rst := true } = .next t ∧ t.cfg ≠ { Cfg.reset with pad := 0 } :=
  ⟨⟨_, rfl, by decide⟩, _, rfl, by decide⟩

/-- EncodeSymbolFollowsRanges: each clause at its boundaries. -/
theorem witness_encode_ranges : (25#6).toNat ≤ 25 ∧ (26 ≤ (26#6).toNat ∧ (26#6).toNat ≤ 51) ∧
    (26 ≤ (51#6).toNat ∧ (51#6).toNat ≤ 51) ∧ (52 ≤ (52#6).toNat ∧ (52#6).toNat ≤ 61) ∧
    (52 ≤ (61#6).toNat ∧ (61#6).toNat ≤ 61) ∧ (62#6).toNat = 62 ∧ (63#6).toNat = 63 := by decide

/-- DecodeSymbolFollowsRanges: a byte outside the fixed ranges as symbol 62, as symbol 63 and as neither. -/
theorem witness_decode_sym62 : (∀ v : SymVal, v.toNat < 62 → encodeSymbol Cfg.reset v ≠ 0x2B#8) ∧
    0x2B#8 = Cfg.reset.sym62 := ⟨by decide, by decide⟩

theorem witness_decode_sym63 : (∀ v : SymVal, v.toNat < 62 → encodeSymbol Cfg.reset v ≠ 0x2F#8) ∧
    0x2F#8 ≠ Cfg.reset.sym62 ∧ 0x2F#8 = Cfg.reset.sym63 := ⟨by decide, by decide⟩

theorem witness_decode_none : (∀ v : SymVal, v.toNat < 62 → encodeSymbol Cfg.reset v ≠ 0x2D#8) ∧
    0x2D#8 ≠ Cfg.reset.sym62 ∧ 0x2D#8 ≠ Cfg.reset.sym63 := ⟨by decide, by decide⟩

/-- InverseLawNeedsDistinctSymbols and the laws over streams: the reset configuration meets every condition. -/
theorem witness_roundTrips : Cfg.reset.distinctSymbols ∧ Cfg.reset.roundTrips := by
  unfold Cfg.roundTrips Cfg.distinctSymbols; decide

/-- ClassifyTestsInOrder: each clause, the first two at their common boundary. -/
theorem witness_classify : (0x20#8).toNat ≤ 0x20 ∧ 0x20 < (0x21#8).toNat ∧ 0x20 < (0x3D#8).toNat ∧
    (Cfg.reset.pad ≠ 0 ∧ 0x3D#8 = Cfg.reset.pad) ∧ decodeSymbol Cfg.reset 0x2B = some 62 ∧
    decodeSymbol Cfg.reset 0x21 = none ∧ 0x21#8 ≠ Cfg.reset.pad := by decide

/-- EncWriteFillsGroup: both steps. -/
theorem witness_EncWriteFillsGroup : (encAt 0 .zero).rspReady.accepts 1 = true ∧ (encAt 0 .zero).enc.step = .zero ∧
    (encAt 0x4D0000 .one).enc.step = .one := by decide

/-- EncWriteCompletesGroup: wrapping off, below the threshold, and at it. -/
theorem witness_EncWriteCompletesGroup : (encAt 0x4D6100 .two).enc.step = .two ∧ ceil4 0 = 0 ∧
    (ceil4 5 ≠ 0 ∧ (0 : LineCount) + 4 < ceil4 5) ∧ (ceil4 4 ≠ 0 ∧ ceil4 4 ≤ (0 : LineCount) + 4) ∧
    Ready.accepts (.times 6) 6 = true := by decide

theorem witness_EncFinalize : (encAt 0 .zero).enc.step = .zero ∧ (encAt 0x4D0000 .one).enc.step = .one ∧
    (encAt 0x4D6100 .two).enc.step = .two ∧ (encAt 0 .zero).outReady.accepts 5 = true := by decide

/-- The encoder's frame and bounds. -/
theorem witness_encoder_frame : ∃ t, exec (.encWrite 0x6E) (encAt 0x4D6100 .two) = .next t ∧ t.out.length = 4 ∧
    ∃ u, exec .encFinalize (encAt 0x4D6100 .two) = .next u ∧ (encAt 0x4D6100 .two).outReady = .always :=
  ⟨_, rfl, by decide, _, rfl, rfl⟩

/-- OutputWaitKeepsItemsAndOrder: an environment that takes one of the five items; then a wait for four items with all,
none, one and three of them accepted, the response taken and held. -/
theorem witness_OutputWait : ∃ t u, exec .encFinalize { encAt 0x4D0000 .one with outReady := .times 1 } = .next t ∧
    exec .encFinalize { encAt 0x4D0000 .one with outReady := .always } = .next u ∧
    t.progress = .emit [.byte 0x51, .byte 0x3D, .byte 0x3D, .endOfStream] ∧ t.rst = false ∧
    Ready.accepts (.times 4) 4 = true ∧ Ready.accepts (.times 0) 1 = false ∧ (∀ k ∈ [0, 1, 3], k < 4) :=
  ⟨_, _, rfl, rfl, by decide, rfl, rfl, rfl, by decide⟩

theorem witness_DecReadReturnsPendingByte : pendingMan.dec.err = false ∧
    pendingMan.dec.step.toNat < pendingMan.dec.fill.toNat := by decide

theorem witness_DecReadDecodesFullGroup : State.reset.dec.err = false ∧
    State.reset.dec.fill.toNat ≤ State.reset.dec.step.toNat ∧ State.reset.dec.exhausted = false ∧
    SymRun.valid Cfg.reset runTWFu ∧ SymRun.values runTWFu = [19, 22, 5, 46] ∧
    (input [0x54, 0x57, 0x0D, 0x0A, 0x46, 0x75]).inp = SymRun.items runTWFu ++ [.endOfStream] := by
  unfold SymRun.valid; decide

/-- DecReadDecodesPartialGroup: no symbol, one under either policy, two, three; END and a padding byte. -/
theorem witness_DecReadDecodesPartialGroup : (∀ n ∈ [0, 1, 2, 3], SymRun.valid Cfg.reset (runTWFu.take n) ∧
      (SymRun.values (runTWFu.take n)).length = n) ∧
    (∀ b ∈ [0x20#8, 0x00#8], b ≤ 0x20#8) ∧ endsData Cfg.reset .endOfStream ∧ endsData Cfg.reset (.byte 0x3D) ∧
    ({ State.reset with policy := .discard } : State).policy = .discard ∧
    (input [0x54, 0x51, 0x20, 0x00, 0x3D]).inp =
      SymRun.items [([], 0x54, 19), ([], 0x51, 16)] ++ inBytes [0x20, 0x00] ++ .byte 0x3D :: [.endOfStream] :=
  ⟨by unfold SymRun.valid; decide, by decide, .inl rfl, .inr ⟨_, rfl, by decide⟩, rfl, by decide⟩

theorem witness_DecReadSymbolFault : SymRun.valid Cfg.reset (runTWFu.take 2) ∧
    0x20#8 < 0x23#8 ∧ 0x23#8 ≠ 0x3D#8 ∧ 0x23#8 ≠ Cfg.reset.pad ∧ decodeSymbol Cfg.reset 0x23 = none ∧
    (input [0x54, 0x57, 0x23]).inp =
      SymRun.items (runTWFu.take 2) ++ inBytes [] ++ .byte 0x23 :: [.endOfStream] := by
  unfold SymRun.valid; decide

theorem witness_OnlyDecReadSetsErr : ∃ t, step { input [0x23] with cmds := [0x40000000] } = .next t ∧
    (input [0x23]).dec.err = false ∧ t.dec.err = true := ⟨_, rfl, by decide, by decide⟩

/-- EndOfDataPersists, both parts; ExhaustedDecoderTakesNoItem. -/
theorem witness_exhausted : exhausted.dec.err = false ∧ exhausted.dec.fill.toNat ≤ exhausted.dec.step.toNat ∧
    exhausted.dec.exhausted = true ∧ exhausted.inv = true ∧
    ∃ t, step { exhausted with cmds := [0x80000002] } = .next t ∧ t.dec.exhausted = false :=
  ⟨by decide, by decide, rfl, by decide, _, rfl, by decide⟩

theorem witness_OnlyDecoderCommandsTakeItems :
    ∃ t, step { input [] with cmds := [0x50000000] } = .next t ∧ t.inp ≠ (input []).inp := ⟨_, rfl, by decide⟩

theorem witness_SymbolErrorIsSticky : faulted.dec.err = true ∧ faulted.rspReady.accepts 1 = true ∧
    faulted.outReady.accepts Config.maxEmit = true ∧
    ∃ t, step { faulted with cmds := [0x80000002] } = .next t ∧ t.dec.err = false :=
  ⟨rfl, rfl, rfl, _, rfl, by decide⟩

/-- DecHasMoreLooksAhead: each clause. -/
theorem witness_DecHasMoreLooksAhead : faulted.dec.err = true ∧
    (pendingMan.dec.err = false ∧ pendingMan.dec.step.toNat < pendingMan.dec.fill.toNat) ∧
    exhausted.dec.exhausted = true ∧ (input []).inp = .endOfStream :: [] ∧
    (input [0x0D]).inp = .byte 0x0D :: [.endOfStream] ∧ State.reset.inp = [] ∧
    State.reset.dec.fill.toNat ≤ State.reset.dec.step.toNat := by decide

theorem witness_DecHasMoreRepeats : ∃ t, exec .decHasMore (input [0x0D]) = .next t ∧
    t.rsp = (input [0x0D]).rsp ++ [1#32] ∧ t.rspReady.accepts 1 = true := ⟨_, rfl, by decide, by decide⟩

/-- MoreDataLaw: the answer 0, and the answer 1 for a pending byte. -/
theorem witness_MoreDataLaw : (∃ t, exec .decHasMore (input []) = .next t ∧ t.rsp = (input []).rsp ++ [0#32]) ∧
    ∃ t, exec .decHasMore pendingMan = .next t ∧ t.rsp = pendingMan.rsp ++ [1#32] ∧
      pendingMan.dec.step.toNat < pendingMan.dec.fill.toNat :=
  ⟨⟨_, rfl, by decide⟩, _, rfl, by decide, by decide⟩

/-- The decoder's frame, and DecReadTakesAtMostFourSymbols. -/
theorem witness_decoder_frame : ∃ t, exec .decRead (input [0x20, 0x54, 0x57, 0x46, 0x75, 0x54]) = .next t ∧
    t.inp = [.byte 0x54, .endOfStream] := ⟨_, rfl, by decide⟩

theorem witness_DecReadWaitsForItems : SymRun.valid Cfg.reset (runTWFu.take 2) ∧
    ({ State.reset with inp := inBytes [0x54, 0x57, 0x0D] } : State).inp =
      SymRun.items (runTWFu.take 2) ++ inBytes [0x0D] := by
  unfold SymRun.valid; decide

theorem witness_DecReadResumes : ∃ t, exec .decRead { State.reset with inp := inBytes [0x54, 0x57] } = .next t ∧
    t.progress = .fetch [19, 22] := ⟨_, rfl, by decide⟩

theorem witness_DecHasMoreResumes : State.reset.rst = false ∧ State.reset.inp = [] ∧
    ∃ t, exec .decHasMore State.reset = .next t ∧ t.progress = .peek := ⟨rfl, rfl, _, rfl, by decide⟩

/-- WaitingCoreMakesNoStep: each way to wait. -/
theorem witness_WaitingCore : State.reset.progress = .idle ∧ State.reset.cmds = [] ∧ State.reset.inp = [] ∧
    ([19, 22, 5] : List SymVal).length ≤ 3 ∧ ([.flush] : List OutItem) ≠ [] := by decide

/-- HeldResponseDelaysOnlyTheEnd: a response that is held, and a command that waits for input. -/
theorem witness_HeldResponse : State.reset.rst = false ∧ Ready.accepts (.times 0) 1 = false ∧
    (∃ t, exec (.cfgWritePad 0) { State.reset with rspReady := .times 0 } = .next t ∧ t.progress = .respond 0) ∧
    ∃ t, exec .decHasMore { State.reset with rspReady := .times 0 } = .next t ∧ t.progress = .peek :=
  ⟨rfl, rfl, ⟨_, rfl, by decide⟩, _, rfl, by decide⟩

/-- PortLevelsFollowProgress: out of reset each level with its progress, and in reset. -/
theorem witness_ports : State.reset.rst = false ∧ cmdReady State.reset = true ∧ inReady { State.reset with progress := .fetch [] } = true ∧
    rspPort { State.reset with progress := .respond 7 } = some 7 ∧
    outPort { State.reset with progress := .emit [.flush] } = some .flush ∧
    ({ State.reset with rst := true } : State).rst = true := by decide

theorem witness_reset_edge : ({ faulted with progress := .peek, rst := true } : State).rst = true := by decide

theorem witness_enc_inv : (encAt 0x4D6100 .two).enc.inv = true ∧
    ({ acc := 0, step := .zero, linecnt := 65532 } : Enc).inv = true ∧
    ∃ t, step { encAt 0x4D6100 .two with cmds := [0x1000006E] } = .next t :=
  ⟨by decide, by decide, _, rfl⟩

/-- The laws over encode streams, and the host's side of ChunkingIndependence. -/
theorem witness_calm : State.reset.calm ∧ State.reset.enc = Enc.reset ∧ State.reset.dec = Dec.reset ∧
    (∀ i ∈ [Instr.encWrite 0x4D, .encFlush, .cfgReadId],
      (∃ b, i = .encWrite b) ∨ i = .encFlush ∨ ∃ r, i = cfgReadOf r) := by
  refine ⟨⟨rfl, rfl, rfl, rfl, rfl⟩, rfl, rfl, fun i h => ?_⟩
  simp only [List.mem_cons, List.not_mem_nil, or_false] at h
  rcases h with rfl | rfl | rfl
  · exact .inl ⟨_, rfl⟩
  · exact .inr (.inl rfl)
  · exact .inr (.inr ⟨.id, rfl⟩)

theorem witness_WhitespaceLaw : (input [0x54, 0x51]).calm ∧
    withoutSkips [0x54, 0x51] = withoutSkips [0x20, 0x54, 0x0A, 0x51, 0x00] ∧
    (input [0x54, 0x51]).inp = inBytes [0x54, 0x51] ++ .endOfStream :: [] ∧ endsData Cfg.reset .endOfStream ∧
    (input [0x54, 0x51, 0x3D]).inp = inBytes [0x54, 0x51] ++ .byte 0x3D :: [.endOfStream] ∧
    endsData Cfg.reset (.byte 0x3D) :=
  ⟨⟨rfl, rfl, rfl, rfl, rfl⟩, by decide, by decide, .inl rfl, by decide, .inr ⟨_, rfl, by decide⟩⟩

/-- S3 and D3 through the host loops: "M" is "TQ==", which reads back as "M" with a skip byte inserted. -/
theorem witness_RoundTripLaw : (∃ t, encStream [0x4D] State.reset = some t ∧
      t.out = outBytes [0x54, 0x51, 0x3D, 0x3D] ++ [.endOfStream]) ∧
    withoutSkips [0x54, 0x0A, 0x51, 0x3D, 0x3D] = withoutSkips [0x54, 0x51, 0x3D, 0x3D] ∧
    (decReadN 2 (input [0x54, 0x0A, 0x51, 0x3D, 0x3D])).bytes = [0x4D] ∧
    (decReadN 2 (input [0x54, 0x0A, 0x51, 0x3D, 0x3D])).stop = .code 2 :=
  ⟨⟨_, rfl, by decide⟩, by decide, by decide, by decide⟩

/-- PinsCarryItems: an item whose kind is not 0, and two items that the pins tell apart by their data alone. -/
theorem witness_pins : OutItem.flush.kind ≠ 0 ∧ (OutItem.byte 0x0D).kind = (OutItem.byte 0x0A).kind ∧
    inItemOfPins true 0x41 = .endOfStream := by decide

theorem witness_assembler : (AsmLine.encWrite 256).wellFormed = false := by decide

end Sys2Proof.Tests
end

/-!
PROOF. What the encoder commands append to the output channel, and how much of it (spec 41_encoder.md R120 to R124;
20_memory.md R55).
-/

namespace Sys2Proof.Machine

/-! ## At most `n` items, each a `BYTE` -/

/-- The items are at most `n`, all of kind `BYTE` (R54). -/
def BytesUpTo (n : Nat) (items : List OutItem) : Prop := items.length ≤ n ∧ ∀ it ∈ items, it.isByte = true

theorem BytesUpTo.append {m n : Nat} {l r : List OutItem} (hl : BytesUpTo m l) (hr : BytesUpTo n r) :
    BytesUpTo (m + n) (l ++ r) := by
  refine ⟨?_, fun it h => (List.mem_append.mp h).elim (hl.2 it) (hr.2 it)⟩
  rw [List.length_append]
  exact Nat.add_le_add hl.1 hr.1

theorem BytesUpTo.of_prefix {n : Nat} {l r : List OutItem} (hr : BytesUpTo n r) (h : l <+: r) : BytesUpTo n l :=
  ⟨h.length_le.trans hr.1, fun it hit => hr.2 it (h.subset hit)⟩

theorem bytesUpTo_outBytes (bs : List Byte) : BytesUpTo bs.length (outBytes bs) := by
  simp [BytesUpTo, outBytes, OutItem.isByte]

/-! ## A complete group and its line break: 4 + 2 items -/

theorem bytesUpTo_groupSymbols (c : Cfg) (a : Acc) : BytesUpTo 4 (groupSymbols c a) :=
  bytesUpTo_outBytes [encodeSymbol c (sym1 a), encodeSymbol c (sym2 a), encodeSymbol c (sym3 a), encodeSymbol c (sym4 a)]

/-- LineWrap() appends CR LF or nothing (R121). -/
theorem lineWrap_items (c : Cfg) (n : LineCount) : (lineWrap c n).1 = [] ∨ (lineWrap c n).1 = crLf := by
  simp only [lineWrap]
  split
  · exact .inl rfl
  · split
    · exact .inr rfl
    · exact .inl rfl

theorem bytesUpTo_lineWrap (c : Cfg) (n : LineCount) : BytesUpTo 2 (lineWrap c n).1 := by
  have hcrLf : BytesUpTo 2 crLf := bytesUpTo_outBytes [0x0D, 0x0A]
  rcases lineWrap_items c n with h | h <;> rw [h]
  · exact hcrLf.of_prefix List.nil_prefix
  · exact hcrLf

theorem bytesUpTo_emitGroup (c : Cfg) (a : Acc) (n : LineCount) : BytesUpTo Config.maxEmit (emitGroup c a n).1 :=
  (bytesUpTo_groupSymbols c a).append (bytesUpTo_lineWrap c n)

/-! ## The tail: 2 symbols and 2 padding bytes, or 3 symbols and 1 padding byte -/

theorem bytesUpTo_padding (c : Cfg) (n : Nat) : BytesUpTo n (padding c n) := by
  unfold padding
  split
  · simp [BytesUpTo]
  · simp [BytesUpTo, OutItem.isByte]

theorem bytesUpTo_tailItems (c : Cfg) (e : Enc) : BytesUpTo Config.maxTail (tailItems c e) := by
  unfold tailItems
  split
  · simp [BytesUpTo]
  · exact (bytesUpTo_outBytes [encodeSymbol c (sym1 e.acc), encodeSymbol c (sym2 e.acc)]).append (bytesUpTo_padding c 2)
  · exact (bytesUpTo_outBytes [encodeSymbol c (sym1 e.acc), encodeSymbol c (sym2 e.acc),
      encodeSymbol c (sym3 e.acc)]).append (bytesUpTo_padding c 1)

/-! ## What the commands append -/

/-- ENC_WRITE appends, from the start of the group it would complete, as many items as the environment accepts; where
the byte completes no group, none (R122, R55). -/
theorem exec_encWrite_out {b : Byte} {s t : State} (h : exec (.encWrite b) s = .next t) :
    ∃ items, t.out = s.out ++ items ∧
      items <+: (emitGroup s.cfg (ofBytes (byte1 s.enc.acc) (byte2 s.enc.acc) b) s.enc.linecnt).1 := by
  simp only [exec, execEncWrite] at h
  split at h <;> cases h
  · exact ⟨[], by simp, List.nil_prefix⟩
  · exact ⟨[], by simp, List.nil_prefix⟩
  · exact ⟨_, emitThenOk_out _ _, List.take_prefix _ _⟩

/-- ENC_FINALIZE appends the tail and END where the environment accepts every item (R124). -/
theorem exec_encFinalize_out {s t : State} (h : exec .encFinalize s = .next t) (hready : s.outReady = .always) :
    t.out = s.out ++ tailItems s.cfg s.enc ++ [.endOfStream] := by
  simp only [exec, execEncFinalize] at h
  cases h
  simp [emitThenOk_out, hready, List.take_of_length_le]

/-- Settles O28: ENC_WRITE appends a prefix of a group and its line break, ENC_FINALIZE the tail and END. -/
theorem encoderCommandsEmitBoundedItems : Obligations.EncoderCommandsEmitBoundedItems := by
  refine ⟨fun b s t h => ?_, fun s t h hready => ?_⟩
  · obtain ⟨items, hout, hprefix⟩ := exec_encWrite_out h
    exact ⟨items, hout, (bytesUpTo_emitGroup _ _ _).of_prefix hprefix⟩
  · exact ⟨_, exec_encFinalize_out h hready, bytesUpTo_tailItems _ _⟩

end Sys2Proof.Machine

/-!
PROOF. What a command and its parts can do, as the statements about the registers need it: one inversion lemma per
command that branches (spec 41_encoder.md R122; 42_decoder.md R152, R153, R156), one over all commands, and frames.
-/

namespace Sys2Proof.Machine

/-! ## Encoder commands -/

/-- ENC_WRITE by `enc.step`: the byte is stored, or completes a group (R122). -/
theorem execEncWrite_cases {b : Byte} {s t : State} (h : execEncWrite b s = .next t) :
    t = respond .ok 0 (s.withEnc { s.enc with acc := ofBytes b 0 0, step := .one }) ∨
    t = respond .ok 0 (s.withEnc { s.enc with acc := ofBytes (byte1 s.enc.acc) b 0, step := .two }) ∨
    ∃ a, t = emitThenOk (emitGroup s.cfg a s.enc.linecnt).1
      (s.withEnc { acc := 0, step := .zero, linecnt := (emitGroup s.cfg a s.enc.linecnt).2 }) := by
  unfold execEncWrite at h
  split at h <;> cases h
  · exact .inl rfl
  · exact .inr (.inl rfl)
  · exact .inr (.inr ⟨_, rfl⟩)

/-! ## Decoder commands -/

/-- DEC_READ: the sticky error, a pending byte, or a group fetch (R153, R213). -/
theorem execDecRead_cases {s t : State} (h : execDecRead s = .next t) :
    (s.dec.err = true ∧ t = respond .errSymbol 0 s) ∨
    (s.dec.err = false ∧ s.dec.pending = true ∧ t = returnPending s) ∨
    (s.dec.err = false ∧ s.dec.pending = false ∧ t = continueRead [] s) := by
  unfold execDecRead at h
  split at h
  · next herr => cases h; exact .inl ⟨herr, rfl⟩
  · next herr =>
    split at h
    · next hpending => cases h; exact .inr (.inl ⟨Bool.eq_false_of_not_eq_true herr, hpending, rfl⟩)
    · next hpending =>
      cases h
      exact .inr (.inr ⟨Bool.eq_false_of_not_eq_true herr, Bool.eq_false_of_not_eq_true hpending, rfl⟩)

/-- DEC_HAS_MORE answers from the registers alone, or looks at the input channel because input is wanted (R156). -/
theorem execDecHasMore_cases {s t : State} (h : execDecHasMore s = .next t) :
    (∃ rc data, t = respond rc data s) ∨ (s.dec.wantsInput = true ∧ t = continuePeek s) := by
  unfold execDecHasMore at h
  split at h
  · cases h; exact .inl ⟨_, _, rfl⟩
  · split at h
    · cases h; exact .inl ⟨_, _, rfl⟩
    · split at h <;> cases h
      · exact .inl ⟨_, _, rfl⟩
      · exact .inr ⟨by simp_all [Dec.wantsInput], rfl⟩

/-- DEC_HAS_MORE at the input channel: it waits, takes END, or answers 1 (R156). -/
theorem continuePeek_cases (s : State) :
    continuePeek s = s.withProgress .peek ∨
    continuePeek s = respond .ok 0 ((inTake s).withDec (s.dec.setExhausted true)) ∨
    continuePeek s = respond .ok 1 s := by
  unfold continuePeek
  split
  · exact .inl rfl
  · exact .inr (.inl rfl)
  · exact .inr (.inr rfl)

/-- The end of DEC_READ: no byte, or the first of a group's bytes (R152, R155). -/
theorem groupResult_cases (vs : List SymVal) (s : State) :
    groupResult vs s = respond .eod 0 (s.withDec { s.dec with fill := 0, step := 0 }) ∨
    groupResult vs s = respond .byte ((byte1 (assemble vs)).setWidth 24)
      (s.withDec { s.dec with acc := assemble vs, fill := fillOf vs.length, step := 1 }) := by
  unfold groupResult
  split
  · exact .inl rfl
  · exact .inr rfl

@[simp] theorem groupResult_enc (vs : List SymVal) (s : State) : (groupResult vs s).enc = s.enc := by
  rcases groupResult_cases vs s with h | h <;> simp [h]

@[simp] theorem groupResult_inp (vs : List SymVal) (s : State) : (groupResult vs s).inp = s.inp := by
  rcases groupResult_cases vs s with h | h <;> simp [h]

@[simp] theorem returnPending_enc (s : State) : (returnPending s).enc = s.enc := by simp [returnPending]

@[simp] theorem returnPending_inp (s : State) : (returnPending s).inp = s.inp := by simp [returnPending]

@[simp] theorem continueRead_enc (vs : List SymVal) (s : State) : (continueRead vs s).enc = s.enc := by
  simp only [continueRead]
  split <;> simp [raise_symbolFault]

/-- What DEC_READ leaves in the input channel is what its group fetch leaves (R52). -/
theorem continueRead_inp (vs : List SymVal) (s : State) :
    (continueRead vs s).inp = (fetchGroup s.cfg (4 - vs.length) vs s.dec.exhausted s.inp).inp := by
  simp only [continueRead]
  split <;> simp [raise_symbolFault]

@[simp] theorem continuePeek_enc (s : State) : (continuePeek s).enc = s.enc := by
  rcases continuePeek_cases s with h | h | h <;> simp [h, inTake]

/-! ## The group fetch -/

/-- An exhausted decoder takes no item (R34, R151). -/
theorem fetchGroup_exhausted_inp (c : Cfg) (todo : Nat) (vs : List SymVal) (inp : List InItem) :
    (fetchGroup c todo vs true inp).inp = inp := by
  cases todo <;> simp [fetchGroup]

/-- A symbol fetch waits only while not exhausted (R151). -/
theorem nextSymbol_wait_exhausted {c : Cfg} {e : Bool} {inp : List InItem} (h : (nextSymbol c e inp).verdict = .wait) :
    (nextSymbol c e inp).exhausted = false := by
  cases e with
  | true => simp at h
  | false => exact (takeSymbol_wait_inp c inp h).2

/-- A group fetch that waits still wants a symbol and is not exhausted (R151, R153). -/
theorem fetchGroup_wait {c : Cfg} {todo : Nat} {vs ws : List SymVal} {e : Bool} {inp : List InItem}
    (h : (fetchGroup c todo vs e inp).verdict = .wait ws) :
    ws.length < vs.length + todo ∧ (fetchGroup c todo vs e inp).exhausted = false := by
  induction todo generalizing vs e inp with
  | zero => simp [fetchGroup] at h
  | succ todo ih =>
    unfold fetchGroup at h ⊢
    dsimp only at h ⊢
    split at h
    · obtain ⟨hlen, hexh⟩ := ih h
      rw [List.length_append, List.length_singleton] at hlen
      exact ⟨by omega, hexh⟩
    · cases h
    · cases h
    · next hwait =>
      cases h
      exact ⟨by omega, nextSymbol_wait_exhausted hwait⟩

/-! ## All commands -/

/-- Everything a command can do: answer with the configuration alone changed (NOP, CFG_WRITE, CFG_READ), or what the
encoder commands, the decoder commands and SRST do. -/
theorem exec_cases {i : Instr} {s t : State} (h : exec i s = .next t) :
    (∃ rc data c, t = respond rc data (s.withCfg c)) ∨
    (∃ b, execEncWrite b s = .next t) ∨
    t = emitThenOk [.flush] s ∨
    t = emitThenOk (tailItems s.cfg s.enc ++ [.endOfStream]) (s.withEnc Enc.reset) ∨
    execDecRead s = .next t ∨
    execDecHasMore s = .next t ∨
    ∃ m, t = respond .ok 0 (softReset m s) := by
  cases i
  case encWrite b => exact .inr (.inl ⟨b, h⟩)
  case encFlush => cases h; exact .inr (.inr (.inl rfl))
  case encFinalize => cases h; exact .inr (.inr (.inr (.inl rfl)))
  case decRead => exact .inr (.inr (.inr (.inr (.inl h))))
  case decHasMore => exact .inr (.inr (.inr (.inr (.inr (.inl h)))))
  case srst m => cases h; exact .inr (.inr (.inr (.inr (.inr (.inr ⟨m, rfl⟩)))))
  all_goals cases h; exact .inl ⟨_, _, _, rfl⟩

end Sys2Proof.Machine

/-!
PROOF. The encoder's invariant, which every step keeps (spec 10_state.md R30).
-/

namespace Sys2Proof.Machine

/-! ## The line count -/

/-- R30's clause on `enc.linecnt`: a multiple of 4, at most 65532. -/
def LinecntInv (n : LineCount) : Prop := n.toNat % 4 = 0 ∧ n.toNat ≤ 65532

theorem ceil4_toNat (l : LineLen) : (ceil4 l).toNat = (l.toNat + 3) / 4 * 4 := by
  have hl := l.isLt
  simp only [ceil4, BitVec.toNat_shiftLeft, BitVec.toNat_ushiftRight, BitVec.toNat_add, BitVec.toNat_setWidth,
    BitVec.reduceToNat, Nat.shiftLeft_eq, Nat.shiftRight_eq_div_pow]
  omega

/-- A count that stays below the threshold, itself at most 65536, is at most 65532 (R121). -/
theorem lineWrap_linecntInv (c : Cfg) {n : LineCount} (hn : LinecntInv n) : LinecntInv (lineWrap c n).2 := by
  obtain ⟨hmod, hle⟩ := hn
  simp only [lineWrap]
  split
  · exact ⟨hmod, hle⟩
  · split
    · exact ⟨rfl, by decide⟩
    · next hbelow =>
      have hadd : (n + 4).toNat = n.toNat + 4 := by rw [BitVec.toNat_add]; simp; omega
      have hthresh := ceil4_toNat c.lineLen
      have hlen := c.lineLen.isLt
      rw [BitVec.le_def, hadd] at hbelow
      show LinecntInv (n + 4)
      exact ⟨by omega, by omega⟩

/-! ## The invariant at each step of a group -/

theorem Enc.linecntInv_of_inv {e : Enc} (h : e.inv = true) : LinecntInv e.linecnt := by
  simp only [Enc.inv, Bool.and_eq_true, beq_iff_eq, decide_eq_true_eq] at h
  obtain ⟨⟨-, hmod⟩, hle⟩ := h
  exact ⟨hmod, hle⟩

theorem Enc.inv_zero {n : LineCount} (hn : LinecntInv n) :
    ({ acc := 0, step := .zero, linecnt := n } : Enc).inv = true := by
  simp [Enc.inv, hn.1, hn.2]

theorem Enc.inv_one (b : Byte) {n : LineCount} (hn : LinecntInv n) :
    ({ acc := ofBytes b 0 0, step := .one, linecnt := n } : Enc).inv = true := by
  have hacc : (ofBytes b 0 0).extractLsb' 0 16 = 0 := by
    rw [ofBytes, BitVec.append_assoc]
    exact BitVec.extractLsb'_append_eq_right
  simp only [Enc.inv, hacc, hn.1, hn.2]
  rfl

theorem Enc.inv_two (b1 b2 : Byte) {n : LineCount} (hn : LinecntInv n) :
    ({ acc := ofBytes b1 b2 0, step := .two, linecnt := n } : Enc).inv = true := by
  have hacc : (ofBytes b1 b2 0).extractLsb' 0 8 = 0 := BitVec.extractLsb'_append_eq_right
  simp only [Enc.inv, hacc, hn.1, hn.2]
  rfl

theorem Enc.reset_inv : Enc.reset.inv = true := by decide

/-! ## Commands and steps -/

theorem execEncWrite_keeps_encInv {b : Byte} {s t : State} (hs : s.enc.inv = true) (h : execEncWrite b s = .next t) :
    t.enc.inv = true := by
  have hn := Enc.linecntInv_of_inv hs
  obtain rfl | rfl | ⟨a, rfl⟩ := execEncWrite_cases h
  · simpa using Enc.inv_one b hn
  · simpa using Enc.inv_two (byte1 s.enc.acc) b hn
  · simpa [emitGroup] using Enc.inv_zero (lineWrap_linecntInv s.cfg hn)

theorem softReset_keeps_encInv (m : BitVec 3) {s : State} (hs : s.enc.inv = true) : (softReset m s).enc.inv = true := by
  rw [softReset_enc]
  split
  · exact Enc.reset_inv
  · exact hs

theorem execDecRead_enc {s t : State} (h : execDecRead s = .next t) : t.enc = s.enc := by
  obtain ⟨-, rfl⟩ | ⟨-, -, rfl⟩ | ⟨-, -, rfl⟩ := execDecRead_cases h <;> simp

theorem execDecHasMore_enc {s t : State} (h : execDecHasMore s = .next t) : t.enc = s.enc := by
  obtain ⟨rc, data, rfl⟩ | ⟨-, rfl⟩ := execDecHasMore_cases h <;> simp

theorem exec_keeps_encInv {i : Instr} {s t : State} (hs : s.enc.inv = true) (h : exec i s = .next t) :
    t.enc.inv = true := by
  obtain ⟨rc, data, c, rfl⟩ | ⟨b, hwrite⟩ | rfl | rfl | hread | hmore | ⟨m, rfl⟩ := exec_cases h
  · simpa using hs
  · exact execEncWrite_keeps_encInv hs hwrite
  · simpa using hs
  · simpa using Enc.reset_inv
  · rwa [execDecRead_enc hread]
  · rwa [execDecHasMore_enc hmore]
  · simpa using softReset_keeps_encInv m hs

/-- Settles O52: ENC_WRITE, ENC_FINALIZE, SRST and reset set the encoder's registers; nothing else does. -/
theorem stepKeepsEncoderInvariant : Obligations.StepKeepsEncoderInvariant := by
  intro s t hs h
  obtain ⟨-, rfl⟩ | ⟨-, -, -, rfl⟩ | ⟨w, rest, i, -, -, hexec⟩ | ⟨w, rest, e, -, -, rfl⟩ | ⟨syms, -, -, rfl⟩ |
    ⟨-, -, rfl⟩ | ⟨items, -, -, rfl⟩ | ⟨w, -, -, rfl⟩ := step_cases h
  · exact Enc.reset_inv
  · exact hs
  · exact exec_keeps_encInv (s := { s with cmds := rest }) hs hexec
  all_goals simpa [raise_illegal] using hs

end Sys2Proof.Machine

/-!
PROOF. The decoder's invariant and what a command in progress can be (spec 10_state.md R34, R36; 42_decoder.md R151,
R153, R156), the machine's invariant assembled from them, and the values after reset (R43).
-/

namespace Sys2Proof.Machine

/-! ## The invariant's clauses -/

theorem State.inv_iff (s : State) :
    s.inv = true ↔ s.enc.inv = true ∧ s.dec.inv = true ∧ s.progressInv = true := by
  simp [State.inv, and_assoc]

theorem Dec.inv_iff (d : Dec) : d.inv = true ↔
    ((d.fill = 0 ∧ d.step = 0) ∨ (1 ≤ d.step.toNat ∧ d.step.toNat ≤ d.fill.toNat)) ∧
      (d.err = true → d.fill = 0 ∧ d.step = 0) := by
  cases he : d.err <;> simp [Dec.inv, he]

theorem Dec.pending_iff (d : Dec) : d.pending = true ↔ d.step.toNat < d.fill.toNat := by
  simp [Dec.pending, BitVec.ult]

theorem Dec.wantsInput_iff (d : Dec) :
    d.wantsInput = true ↔ d.err = false ∧ d.pending = false ∧ d.exhausted = false := by
  simp [Dec.wantsInput, and_assoc]

theorem State.progressInv_of_fetch {s : State} {vs : List SymVal} (hp : s.progress = .fetch vs) :
    s.progressInv = true ↔ vs.length ≤ 3 ∧ s.dec.wantsInput = true := by
  simp [State.progressInv, hp]

theorem State.progressInv_of_peek {s : State} (hp : s.progress = .peek) :
    s.progressInv = true ↔ s.dec.wantsInput = true := by
  simp [State.progressInv, hp]

theorem State.progressInv_of_emit {s : State} {items : List OutItem} (hp : s.progress = .emit items) :
    s.progressInv = true ↔ 1 ≤ items.length ∧ items.length ≤ Config.maxEmit := by
  simp [State.progressInv, hp]

theorem State.progressInv_of_respond {s : State} {w : Word} (hp : s.progress = .respond w) :
    s.progressInv = true ↔ legalResponse w = true := by
  simp [State.progressInv, hp]

/-! ## What the shared operations leave in progress -/

theorem sendResponse_progressInv {w : Word} (hw : legalResponse w = true) (s : State) :
    (sendResponse w s).progressInv = true := by
  obtain ⟨-, h⟩ | ⟨-, h⟩ := sendResponse_cases w s <;> rw [h]
  · rfl
  · exact (State.progressInv_of_respond rfl).2 hw

theorem respond_progressInv (rc : ResultCode) (data : Acc) (s : State) : (respond rc data s).progressInv = true :=
  sendResponse_progressInv (legalResponse_responseWord rc data) s

/-- Of at most 6 items either all are accepted or from 1 to 6 wait (R55). -/
theorem emitThenOk_progressInv {items : List OutItem} (hmax : items.length ≤ Config.maxEmit) (s : State) :
    (emitThenOk items s).progressInv = true := by
  unfold emitThenOk
  split
  · exact respond_progressInv _ _ _
  · next hwait =>
    have hgrant := Ready.grant_lt_of_not_accepts (Bool.eq_false_of_not_eq_true hwait)
    rw [State.progressInv_of_emit rfl, List.length_drop]
    omega

/-! ## The decoder's half of the invariant -/

/-- R36 and the clause on the command in progress, which a step keeps whatever the encoder holds. -/
def State.DecoderInv (s : State) : Prop := s.dec.inv = true ∧ s.progressInv = true

theorem respond_decoderInv (rc : ResultCode) (data : Acc) {s : State} (hd : s.dec.inv = true) :
    (respond rc data s).DecoderInv :=
  ⟨by simpa using hd, respond_progressInv rc data s⟩

theorem emitThenOk_decoderInv {items : List OutItem} {s : State} (hd : s.dec.inv = true)
    (hmax : items.length ≤ Config.maxEmit) : (emitThenOk items s).DecoderInv :=
  ⟨by simpa using hd, emitThenOk_progressInv hmax s⟩

/-! ## The decoder's registers -/

theorem Dec.reset_inv : Dec.reset.inv = true := by decide

theorem Dec.setExhausted_inv (d : Dec) (v : Bool) : (d.setExhausted v).inv = d.inv := rfl

theorem Dec.inv_empty (d : Dec) : ({ d with fill := 0, step := 0 } : Dec).inv = true := by
  simp [Dec.inv]

theorem Dec.faulted_inv (d : Dec) : d.faulted.inv = true := by
  simp [Dec.inv]

/-- A group yields at least one byte, the one that is returned at once (R152). -/
theorem one_le_fillOf (n : Nat) : 1 ≤ (fillOf n).toNat := by
  unfold fillOf
  split
  · decide
  · split <;> decide

theorem Dec.inv_firstByte {d : Dec} (herr : d.err = false) (a : Acc) (n : Nat) :
    ({ d with acc := a, fill := fillOf n, step := 1 } : Dec).inv = true := by
  simp [Dec.inv_iff, herr, one_le_fillOf]

/-- `dec.step` advances up to `dec.fill` at most, so it does not wrap (R33, R36). -/
theorem Dec.inv_advance {d : Dec} (herr : d.err = false) (hpending : d.pending = true) :
    ({ d with step := d.step + 1 } : Dec).inv = true := by
  have hlt := d.pending_iff.1 hpending
  have hadd : (d.step + 1).toNat = d.step.toNat + 1 := by rw [BitVec.toNat_add]; simp; omega
  simp only [Dec.inv_iff, herr, hadd]
  exact ⟨.inr ⟨by omega, by omega⟩, by simp⟩

/-! ## Decoder commands -/

theorem returnPending_decoderInv {s : State} (herr : s.dec.err = false) (hpending : s.dec.pending = true) :
    (returnPending s).DecoderInv :=
  respond_decoderInv _ _ (Dec.inv_advance herr hpending)

theorem groupResult_decoderInv (vs : List SymVal) {s : State} (herr : s.dec.err = false) :
    (groupResult vs s).DecoderInv := by
  rcases groupResult_cases vs s with h | h <;> rw [h]
  · exact respond_decoderInv _ _ (Dec.inv_empty _)
  · exact respond_decoderInv _ _ (Dec.inv_firstByte herr _ _)

/-- A group fetch entered with at most three symbols, nothing pending and no error (R153). -/
theorem continueRead_decoderInv {vs : List SymVal} {s : State} (hlen : vs.length ≤ 3) (hd : s.dec.inv = true)
    (herr : s.dec.err = false) (hpending : s.dec.pending = false) : (continueRead vs s).DecoderInv := by
  simp only [continueRead]
  split
  · exact groupResult_decoderInv _ herr
  · exact respond_decoderInv _ _ (Dec.faulted_inv _)
  · next ws hwait =>
    obtain ⟨hws, hexh⟩ := fetchGroup_wait hwait
    refine ⟨hd, (State.progressInv_of_fetch rfl).2 ⟨by omega, ?_⟩⟩
    exact (Dec.wantsInput_iff _).2 ⟨herr, hpending, hexh⟩

theorem continuePeek_decoderInv {s : State} (hd : s.dec.inv = true) (hwants : s.dec.wantsInput = true) :
    (continuePeek s).DecoderInv := by
  rcases continuePeek_cases s with h | h | h <;> rw [h]
  · exact ⟨hd, (State.progressInv_of_peek rfl).2 hwants⟩
  · exact respond_decoderInv _ _ hd
  · exact respond_decoderInv _ _ hd

theorem execDecRead_decoderInv {s t : State} (hd : s.dec.inv = true) (h : execDecRead s = .next t) : t.DecoderInv := by
  obtain ⟨-, rfl⟩ | ⟨herr, hpending, rfl⟩ | ⟨herr, hpending, rfl⟩ := execDecRead_cases h
  · exact respond_decoderInv _ _ hd
  · exact returnPending_decoderInv herr hpending
  · exact continueRead_decoderInv (by simp) hd herr hpending

theorem execDecHasMore_decoderInv {s t : State} (hd : s.dec.inv = true) (h : execDecHasMore s = .next t) :
    t.DecoderInv := by
  obtain ⟨rc, data, rfl⟩ | ⟨hwants, rfl⟩ := execDecHasMore_cases h
  · exact respond_decoderInv _ _ hd
  · exact continuePeek_decoderInv hd hwants

/-! ## Encoder commands and SRST -/

theorem execEncWrite_decoderInv {b : Byte} {s t : State} (hd : s.dec.inv = true) (h : execEncWrite b s = .next t) :
    t.DecoderInv := by
  obtain rfl | rfl | ⟨a, rfl⟩ := execEncWrite_cases h
  · exact respond_decoderInv _ _ hd
  · exact respond_decoderInv _ _ hd
  · exact emitThenOk_decoderInv hd (bytesUpTo_emitGroup _ _ _).1

/-- ENC_FINALIZE's items: the tail's MAX_TAIL and END are fewer than MAX_EMIT (R7, R124). -/
theorem tailThenEnd_length_le (c : Cfg) (e : Enc) :
    (tailItems c e ++ [OutItem.endOfStream]).length ≤ Config.maxEmit := by
  have htail : (tailItems c e).length ≤ 4 := (bytesUpTo_tailItems c e).1
  simp only [List.length_append, List.length_singleton, Config.maxEmit]
  omega

theorem softReset_keeps_decInv (m : BitVec 3) {s : State} (hd : s.dec.inv = true) : (softReset m s).dec.inv = true := by
  rw [softReset_dec]
  split
  · exact Dec.reset_inv
  · exact hd

/-- A command accepted by an idle core establishes the clause on the command in progress. -/
theorem exec_decoderInv {i : Instr} {s t : State} (hd : s.dec.inv = true) (h : exec i s = .next t) : t.DecoderInv := by
  obtain ⟨rc, data, c, rfl⟩ | ⟨b, hwrite⟩ | rfl | rfl | hread | hmore | ⟨m, rfl⟩ := exec_cases h
  · exact respond_decoderInv _ _ hd
  · exact execEncWrite_decoderInv hd hwrite
  · exact emitThenOk_decoderInv hd (by decide)
  · exact emitThenOk_decoderInv hd (tailThenEnd_length_le _ _)
  · exact execDecRead_decoderInv hd hread
  · exact execDecHasMore_decoderInv hd hmore
  · exact respond_decoderInv _ _ (softReset_keeps_decInv m hd)

/-! ## Steps -/

/-- Each way to be in progress hands its own clause to the part of the command that goes on. -/
theorem step_keeps_decoderInv {s t : State} (hs : s.DecoderInv) (h : step s = .next t) : t.DecoderInv := by
  obtain ⟨hd, hprogress⟩ := hs
  obtain ⟨-, rfl⟩ | ⟨-, -, -, rfl⟩ | ⟨w, rest, i, -, -, hexec⟩ | ⟨w, rest, e, -, -, rfl⟩ | ⟨syms, -, hp, rfl⟩ |
    ⟨-, hp, rfl⟩ | ⟨items, -, hp, rfl⟩ | ⟨w, -, hp, rfl⟩ := step_cases h
  · exact ⟨Dec.reset_inv, rfl⟩
  · exact ⟨hd, hprogress⟩
  · exact exec_decoderInv (s := { s with cmds := rest }) hd hexec
  · exact respond_decoderInv _ _ hd
  · obtain ⟨hlen, hwants⟩ := (State.progressInv_of_fetch hp).1 hprogress
    obtain ⟨herr, hpending, -⟩ := s.dec.wantsInput_iff.1 hwants
    exact continueRead_decoderInv hlen hd herr hpending
  · exact continuePeek_decoderInv hd ((State.progressInv_of_peek hp).1 hprogress)
  · obtain ⟨-, hmax⟩ := (State.progressInv_of_emit hp).1 hprogress
    exact emitThenOk_decoderInv hd hmax
  · exact ⟨by simpa using hd, sendResponse_progressInv ((State.progressInv_of_respond hp).1 hprogress) s⟩

/-- Settles O53: the encoder's half is O52, the decoder's half stands by itself. -/
theorem stepKeepsMachineInvariant : Obligations.StepKeepsMachineInvariant := by
  intro s t hs h
  obtain ⟨henc, hdecoder⟩ := s.inv_iff.1 hs
  exact t.inv_iff.2 ⟨stepKeepsEncoderInvariant s t henc h, step_keeps_decoderInv hdecoder h⟩

/-! ## An exhausted decoder takes no item (R34, R52) -/

theorem Dec.wantsInput_of_exhausted {d : Dec} (h : d.exhausted = true) : d.wantsInput = false := by
  simp [Dec.wantsInput, h]

theorem execDecRead_inp_of_exhausted {s t : State} (hexh : s.dec.exhausted = true) (h : execDecRead s = .next t) :
    t.inp = s.inp := by
  obtain ⟨-, rfl⟩ | ⟨-, -, rfl⟩ | ⟨-, -, rfl⟩ := execDecRead_cases h
  · simp
  · simp
  · rw [continueRead_inp, hexh, fetchGroup_exhausted_inp]

theorem execDecHasMore_inp_of_exhausted {s t : State} (hexh : s.dec.exhausted = true)
    (h : execDecHasMore s = .next t) : t.inp = s.inp := by
  obtain ⟨rc, data, rfl⟩ | ⟨hwants, -⟩ := execDecHasMore_cases h
  · simp
  · simp [Dec.wantsInput_of_exhausted hexh] at hwants

theorem execEncWrite_inp {b : Byte} {s t : State} (h : execEncWrite b s = .next t) : t.inp = s.inp := by
  obtain rfl | rfl | ⟨a, rfl⟩ := execEncWrite_cases h <;> simp

theorem exec_inp_of_exhausted {i : Instr} {s t : State} (hexh : s.dec.exhausted = true) (h : exec i s = .next t) :
    t.inp = s.inp := by
  obtain ⟨rc, data, c, rfl⟩ | ⟨b, hwrite⟩ | rfl | rfl | hread | hmore | ⟨m, rfl⟩ := exec_cases h
  · simp
  · exact execEncWrite_inp hwrite
  · simp
  · simp
  · exact execDecRead_inp_of_exhausted hexh hread
  · exact execDecHasMore_inp_of_exhausted hexh hmore
  · simp

/-- Settles O36: a command that waits for input is not exhausted, and an exhausted command does not look at it. -/
theorem exhaustedDecoderTakesNoItem : Obligations.ExhaustedDecoderTakesNoItem := by
  intro s t hs hexh h
  obtain ⟨-, -, hprogress⟩ := s.inv_iff.1 hs
  have hno := Dec.wantsInput_of_exhausted hexh
  obtain ⟨-, rfl⟩ | ⟨-, -, -, rfl⟩ | ⟨w, rest, i, -, -, hexec⟩ | ⟨w, rest, e, -, -, rfl⟩ | ⟨syms, -, hp, -⟩ |
    ⟨-, hp, -⟩ | ⟨items, -, -, rfl⟩ | ⟨w, -, -, rfl⟩ := step_cases h
  · simp
  · rfl
  · exact exec_inp_of_exhausted (s := { s with cmds := rest }) hexh hexec
  · simp [raise_illegal]
  · simp [State.progressInv_of_fetch hp, hno] at hprogress
  · simp [State.progressInv_of_peek hp, hno] at hprogress
  · simp
  · simp

/-! ## After reset (R43) -/

/-- Settles O49: the registers as the reset table gives them, and what the read-only ones compute from them. -/
theorem resetValues : Obligations.ResetValues :=
  ⟨rfl, rfl, rfl, rfl, by decide, by decide, by decide, rfl⟩

/-- Settles O51: each block's reset values meet its invariant, and no command is in progress. -/
theorem resetMeetsMachineInvariant : Obligations.ResetMeetsMachineInvariant :=
  State.reset.inv_iff.2 ⟨Enc.reset_inv, Dec.reset_inv, rfl⟩

end Sys2Proof.Machine

/-!
PROOF. Rules that the statements about the channels share: what a response, an encoder command, a group fetch and a
peek do to the state, said once (spec 20_memory.md R50 to R62; 70_reset_and_hazards.md R246).
-/

namespace Sys2Proof.Machine

/-! ## The response -/

/-- A response overwrites the command in progress: it ends it or takes its place (R246). -/
theorem respond_withProgress (rc : ResultCode) (data : Acc) (s : State) (p : Progress) :
    respond rc data (s.withProgress p) = respond rc data s := rfl

theorem respond_of_accepts {s : State} (rc : ResultCode) (data : Acc) (h : s.rspReady.accepts 1 = true) :
    respond rc data s = s.answered (responseWord rc data) :=
  sendResponse_of_accepts _ h

theorem respond_of_not_accepts {s : State} (rc : ResultCode) (data : Acc) (h : s.rspReady.accepts 1 = false) :
    respond rc data s = s.withProgress (.respond (responseWord rc data)) :=
  sendResponse_of_not_accepts _ h

/-- After a response the command has ended or waits for the host, and for no other channel (R246). -/
theorem respond_progress (rc : ResultCode) (data : Acc) (s : State) :
    (respond rc data s).progress = .idle ∨ (respond rc data s).progress = .respond (responseWord rc data) := by
  obtain ⟨-, h⟩ | ⟨-, h⟩ := sendResponse_cases (responseWord rc data) s <;> simp [respond, h]

theorem respond_progress_ne_fetch (rc : ResultCode) (data : Acc) (s : State) (syms : List SymVal) :
    (respond rc data s).progress ≠ .fetch syms := by
  rcases respond_progress rc data s with h | h <;> simp [h]

theorem respond_progress_ne_peek (rc : ResultCode) (data : Acc) (s : State) :
    (respond rc data s).progress ≠ .peek := by
  rcases respond_progress rc data s with h | h <;> simp [h]

/-- A response that has transferred is the one the command gave (R74). -/
theorem responseWord_eq_of_respond_rsp {rc : ResultCode} {data : Acc} {s : State} {r : Word}
    (h : (respond rc data s).rsp = s.rsp ++ [r]) : responseWord rc data = r := by
  obtain ⟨-, hsend⟩ | ⟨-, hsend⟩ := sendResponse_cases (responseWord rc data) s <;> simp [respond, hsend] at h
  exact h

/-! ## Encoder commands: items appended, then OK 0 (R55) -/

/-- The environment accepts all `n` items or only `k`, fewer than there are. -/
theorem Ready.accepts_or_times_lt (r : Ready) (n : Nat) : r.accepts n = true ∨ ∃ k, r = .times k ∧ k < n := by
  cases r with
  | always => exact .inl rfl
  | times k => simpa [Ready.accepts] using Nat.lt_or_ge k n |>.symm

theorem State.emitted_nil (s : State) : s.emitted [] = s := by
  have hspend : s.outReady.spend 0 = s.outReady := by cases s.outReady <;> rfl
  simp [State.emitted, hspend]

theorem emitThenOk_of_outReady {s : State} {items : List OutItem} (h : s.outReady.accepts items.length = true) :
    emitThenOk items s = respond .ok 0 (s.emitted items) := by
  rw [emitThenOk, if_pos h, appendOut_of_accepts h]

theorem emitThenOk_nil (s : State) : emitThenOk [] s = respond .ok 0 s := by
  rw [emitThenOk_of_outReady (s.outReady.accepts_zero), s.emitted_nil]

/-- Where the environment accepts `k` of the items, these are appended and the rest wait (R55). -/
theorem emitThenOk_of_lt {s : State} {items : List OutItem} {k : Nat} (hready : s.outReady = .times k)
    (hk : k < items.length) :
    emitThenOk items s =
      { s with out := s.out ++ items.take k, outReady := .times 0, progress := .emit (items.drop k) } := by
  have hno : ¬ (Ready.times k).accepts items.length = true := by simpa [Ready.accepts] using hk
  have hgrant : (Ready.times k).grant items.length = k := Nat.min_eq_left hk.le
  rw [emitThenOk, hready, if_neg hno, appendOut, hready, hgrant, Ready.spend, Nat.sub_self]
  rfl

/-- The items that wait, once the environment is ready, complete what it would have taken at once (R55). -/
theorem emitThenOk_resumed (items : List OutItem) (k : Nat) (s : State) (p : Progress) :
    emitThenOk (items.drop k) { s with out := s.out ++ items.take k, outReady := .always, progress := p } =
      emitThenOk items { s with outReady := .always } := by
  have hsame :
      State.emitted { s with out := s.out ++ items.take k, outReady := .always, progress := p } (items.drop k) =
        (State.emitted { s with outReady := .always } items).withProgress p := by
    simp [State.emitted, State.withProgress, List.append_assoc]
  rw [emitThenOk_of_outReady rfl, emitThenOk_of_outReady rfl, hsame, respond_withProgress]

/-- Every encoder command sets the encoder registers, then appends items and answers OK 0; which registers and which
items does not depend on how ready the environment is (R55). ENC_FLUSH sets none (R123). -/
theorem exec_encoder {i : Instr} (hi : (∃ b, i = .encWrite b) ∨ i = .encFlush ∨ i = .encFinalize) (s : State) :
    ∃ items e, (i = .encFlush → e = s.enc) ∧
      ∀ r, exec i { s with outReady := r } = .next (emitThenOk items { s with enc := e, outReady := r }) := by
  obtain ⟨b, rfl⟩ | rfl | rfl := hi
  · cases hstep : s.enc.step <;> simp only [exec, execEncWrite, hstep, ← emitThenOk_nil]
    all_goals exact ⟨_, _, nofun, fun _ => rfl⟩
  · exact ⟨_, _, fun _ => rfl, fun _ => rfl⟩
  · exact ⟨tailItems s.cfg s.enc ++ [.endOfStream], Enc.reset, nofun, fun _ => rfl⟩

theorem exec_encoder_eq {i : Instr} (hi : (∃ b, i = .encWrite b) ∨ i = .encFlush ∨ i = .encFinalize) {s t : State}
    (h : exec i s = .next t) :
    ∃ items e, (i = .encFlush → e = s.enc) ∧ t = emitThenOk items (s.withEnc e) := by
  obtain ⟨items, e, hflush, hexec⟩ := exec_encoder hi s
  exact ⟨items, e, hflush, Host.Outcome.next.inj (h.symm.trans (hexec s.outReady))⟩

/-! ## The group fetch (R151 to R153) -/

theorem SymRun.items_cons (x : List Byte × Byte × SymVal) (g : SymRun) (rest : List InItem) :
    SymRun.items (x :: g) ++ rest = inBytes x.1 ++ .byte x.2.1 :: (SymRun.items g ++ rest) := by
  simp [SymRun.items]

/-- A run of symbols is fetched whole, its values in order, where that many are still wanted (R151, R153). -/
theorem fetchGroup_run (c : Cfg) {g : SymRun} (hg : SymRun.valid c g) (todo : Nat) (vs : List SymVal)
    (rest : List InItem) :
    fetchGroup c (todo + List.length g) vs false (SymRun.items g ++ rest) =
      fetchGroup c todo (vs ++ SymRun.values g) false rest := by
  induction g generalizing vs with
  | nil => simp [SymRun.items, SymRun.values]
  | cons x g ih =>
    obtain ⟨hskips, hsym⟩ := hg x (by simp)
    rw [SymRun.items_cons, List.length_cons, ← Nat.add_assoc,
      fetchGroup_sym _ _ _ _ _ _ _ (fun b hb => by simpa [isSkip] using hskips b hb) hsym,
      ih fun y hy => hg y (List.mem_cons_of_mem _ hy)]
    simp [SymRun.values]

/-- Skip bytes and nothing behind them: the fetch takes them and waits with what it has (R53, R151). -/
theorem fetchGroup_skips_wait (c : Cfg) (todo : Nat) (vs : List SymVal) {gap : List Byte}
    (hgap : ∀ b ∈ gap, isSkip b = true) :
    fetchGroup c (todo + 1) vs false (inBytes gap) = ⟨.wait vs, false, []⟩ := by
  have h := takeSymbol_skips c gap [] hgap
  rw [List.append_nil] at h
  simp [fetchGroup, h, takeSymbol]

/-- A symbol fetch that waits was not exhausted, took every item, and goes on with the items delivered later (R53). -/
theorem nextSymbol_append_of_wait {c : Cfg} {e : Bool} {a : List InItem} (b : List InItem)
    (h : (nextSymbol c e a).verdict = .wait) :
    nextSymbol c e (a ++ b) = nextSymbol c false b ∧ (nextSymbol c e a).inp = [] := by
  cases e with
  | true => simp at h
  | false => exact ⟨takeSymbol_append_of_wait c a b h, (takeSymbol_wait_inp c a h).1⟩

/-- A symbol fetch that has its verdict leaves the items delivered later in the channel (R52). -/
theorem nextSymbol_append_of_not_wait {c : Cfg} {e : Bool} {a : List InItem} (b : List InItem)
    (h : (nextSymbol c e a).verdict ≠ .wait) :
    nextSymbol c e (a ++ b) =
      ⟨(nextSymbol c e a).verdict, (nextSymbol c e a).exhausted, (nextSymbol c e a).inp ++ b⟩ := by
  cases e with
  | true => rfl
  | false => exact takeSymbol_append_of_not_wait c a b h

/-- A group fetch that waits has taken every item, and the items delivered later continue it (R53, R59). -/
theorem fetchGroup_append_of_wait {c : Cfg} {todo : Nat} {vs ws : List SymVal} {e : Bool} {a : List InItem}
    (b : List InItem) (h : (fetchGroup c todo vs e a).verdict = .wait ws) :
    fetchGroup c todo vs e (a ++ b) = fetchGroup c (vs.length + todo - ws.length) ws false b ∧
      (fetchGroup c todo vs e a).inp = [] := by
  induction todo generalizing vs e a with
  | zero => simp [fetchGroup] at h
  | succ todo ih =>
    unfold fetchGroup at h
    dsimp only at h
    by_cases hw : (nextSymbol c e a).verdict = .wait
    · obtain ⟨happend, htaken⟩ := nextSymbol_append_of_wait b hw
      rw [hw] at h
      cases h
      rw [Nat.add_sub_cancel_left]
      simp only [fetchGroup, happend, hw, htaken, and_self]
    · cases hv : (nextSymbol c e a).verdict with
      | sym v =>
        rw [hv] at h
        obtain ⟨hrest, htaken⟩ := ih h
        rw [List.length_append, List.length_singleton, Nat.add_assoc, Nat.add_comm 1] at hrest
        refine ⟨?_, by simpa only [fetchGroup, hv] using htaken⟩
        rw [← hrest, fetchGroup, nextSymbol_append_of_not_wait b hw, hv]
      | eod => rw [hv] at h; cases h
      | invalid => rw [hv] at h; cases h
      | wait => exact absurd hv hw

/-! ## DEC_READ from its group fetch on (R153) -/

/-- DEC_READ once its group fetch has been made: the group's result, the symbol fault, or the wait. -/
def endRead (f : GroupFetch) (s : State) : State :=
  match f.verdict with
  | .symbols ws => groupResult ws (s.afterFetch f)
  | .invalid => raise .symbolFault (s.afterFetch f)
  | .wait ws => (s.afterFetch f).withProgress (.fetch ws)

theorem continueRead_eq_endRead (vs : List SymVal) (s : State) :
    continueRead vs s = endRead (fetchGroup s.cfg (4 - vs.length) vs s.dec.exhausted s.inp) s := rfl

theorem continueRead_nil (s : State) :
    continueRead [] s = endRead (fetchGroup s.cfg 4 [] s.dec.exhausted s.inp) s := rfl

/-- DEC_READ answers with the decoder and the input channel alone changed, or waits with the symbols fetched (R153). -/
theorem endRead_cases (f : GroupFetch) (s : State) :
    (∃ rc data d, endRead f s = respond rc data ((s.withInp f.inp).withDec d)) ∨
    ∃ ws, f.verdict = .wait ws ∧ endRead f s = (s.afterFetch f).withProgress (.fetch ws) := by
  unfold endRead
  split
  · next ws _ =>
    rcases groupResult_cases ws (s.afterFetch f) with h | h <;> exact .inl ⟨_, _, _, h⟩
  · exact .inl ⟨_, _, _, rfl⟩
  · next ws hwait => exact .inr ⟨ws, hwait, rfl⟩

/-- The input channel that the fetch started from is overwritten. -/
theorem endRead_withInp (f : GroupFetch) (s : State) (l : List InItem) : endRead f (s.withInp l) = endRead f s := by
  unfold endRead
  split <;> rfl

/-- The channel, `dec.exhausted` and the command in progress that an earlier fetch left are overwritten. -/
theorem endRead_resumed (f g : GroupFetch) (s : State) (p : Progress) (l : List InItem) :
    endRead f (((s.afterFetch g).withProgress p).withInp l) = endRead f s := by
  unfold endRead
  split <;> rfl

/-! ## DEC_HAS_MORE (R156) -/

/-- DEC_HAS_MORE looks at the input channel where input is wanted (R156). -/
theorem execDecHasMore_of_wantsInput {s : State} (h : s.dec.wantsInput = true) :
    execDecHasMore s = .next (continuePeek s) := by
  obtain ⟨herr, hpending, hexh⟩ := s.dec.wantsInput_iff.1 h
  simp [execDecHasMore, herr, hpending, hexh]

theorem continuePeek_of_nil {s : State} (h : s.inp = []) : continuePeek s = s.withProgress .peek := by
  simp [continuePeek, inPeek, h]

theorem continuePeek_of_endOfStream {s : State} {rest : List InItem} (h : s.inp = .endOfStream :: rest) :
    continuePeek s = respond .ok 0 ((s.withInp rest).withDec (s.dec.setExhausted true)) := by
  simp [continuePeek, inPeek, inTake, h]

theorem continuePeek_of_byte {s : State} {b : Byte} {rest : List InItem} (h : s.inp = .byte b :: rest) :
    continuePeek s = respond .ok 1 s := by
  simp [continuePeek, inPeek, h]

/-- The command in progress is overwritten, by the answer or by the wait. -/
theorem continuePeek_withProgress (s : State) (p : Progress) : continuePeek (s.withProgress p) = continuePeek s := by
  cases h : s.inp with
  | nil => rw [continuePeek_of_nil h, continuePeek_of_nil (s := s.withProgress p) h]; rfl
  | cons it rest =>
    cases it with
    | endOfStream =>
      rw [continuePeek_of_endOfStream h, continuePeek_of_endOfStream (s := s.withProgress p) h]; rfl
    | byte b => rw [continuePeek_of_byte h, continuePeek_of_byte (s := s.withProgress p) h, respond_withProgress]

/-- Where no input is wanted, DEC_HAS_MORE answers from the decoder's registers alone (R156). -/
theorem execDecHasMore_of_not_wantsInput {d : Dec} (h : d.wantsInput = false) :
    ∃ rc data, ∀ v : State, v.dec = d → execDecHasMore v = .next (respond rc data v) := by
  cases herr : d.err with
  | true => exact ⟨.errSymbol, 0, fun v hv => by simp [execDecHasMore, hv, herr]⟩
  | false =>
    cases hpending : d.pending with
    | true => exact ⟨.ok, 1, fun v hv => by simp [execDecHasMore, hv, herr, hpending]⟩
    | false =>
      have hexh : d.exhausted = true := by simpa [Dec.wantsInput, herr, hpending] using h
      exact ⟨.ok, 0, fun v hv => by simp [execDecHasMore, hv, herr, hpending, hexh]⟩

/-- The end of the stream, once taken, is remembered (R34, R156). -/
theorem execDecHasMore_of_endTaken {s : State} {d : Dec} (hd : d.wantsInput = true)
    (hs : s.dec = d.setExhausted true) : execDecHasMore s = .next (respond .ok 0 s) := by
  obtain ⟨herr, hpending, -⟩ := d.wantsInput_iff.1 hd
  have hsame : (d.setExhausted true).pending = d.pending := rfl
  simp [execDecHasMore, hs, herr, hsame, hpending]

/-! ## What a command leaves: its response or its wait -/

/-- `t` is `u` with its response given, taken or held out, or with the command waiting on a channel. -/
def RespondsOrWaits (u t : State) : Prop :=
  (∃ w, t = sendResponse w u) ∨ ∃ p, p ≠ .idle ∧ t = u.withProgress p

theorem respond_respondsOrWaits (rc : ResultCode) (data : Acc) (u : State) :
    RespondsOrWaits u (respond rc data u) := .inl ⟨_, rfl⟩

theorem emitThenOk_respondsOrWaits (items : List OutItem) (s : State) :
    RespondsOrWaits (appendOut items s) (emitThenOk items s) := by
  unfold emitThenOk
  split
  · exact respond_respondsOrWaits _ _ _
  · exact .inr ⟨.emit _, nofun, rfl⟩

/-- A decoder command changes the decoder, takes the first items of the input channel, and answers or waits (R52). -/
def DecoderOutcome (s t : State) : Prop :=
  ∃ d l, l <:+ s.inp ∧ RespondsOrWaits ((s.withInp l).withDec d) t

theorem respond_decoderOutcome (rc : ResultCode) (data : Acc) (s : State) (d : Dec) :
    DecoderOutcome s (respond rc data (s.withDec d)) :=
  ⟨d, s.inp, List.suffix_refl _, respond_respondsOrWaits rc data _⟩

theorem continueRead_decoderOutcome (vs : List SymVal) (s : State) : DecoderOutcome s (continueRead vs s) := by
  rw [continueRead_eq_endRead]
  have hsuffix := fetchGroup_suffix s.cfg (4 - vs.length) vs s.dec.exhausted s.inp
  obtain ⟨rc, data, d, h⟩ | ⟨ws, -, h⟩ := endRead_cases (fetchGroup s.cfg (4 - vs.length) vs s.dec.exhausted s.inp) s
  · exact ⟨d, _, hsuffix, .inl ⟨_, h⟩⟩
  · exact ⟨_, _, hsuffix, .inr ⟨.fetch ws, nofun, h⟩⟩

theorem continuePeek_decoderOutcome (s : State) : DecoderOutcome s (continuePeek s) := by
  rcases continuePeek_cases s with h | h | h <;> rw [h]
  · exact ⟨s.dec, s.inp, List.suffix_refl _, .inr ⟨.peek, nofun, rfl⟩⟩
  · exact ⟨_, s.inp.tail, List.tail_suffix _, respond_respondsOrWaits _ _ _⟩
  · exact respond_decoderOutcome _ _ s s.dec

theorem execDecRead_decoderOutcome {s t : State} (h : execDecRead s = .next t) : DecoderOutcome s t := by
  obtain ⟨-, rfl⟩ | ⟨-, -, rfl⟩ | ⟨-, -, rfl⟩ := execDecRead_cases h
  · exact respond_decoderOutcome _ _ s s.dec
  · exact respond_decoderOutcome _ _ s _
  · exact continueRead_decoderOutcome [] s

theorem execDecHasMore_decoderOutcome {s t : State} (h : execDecHasMore s = .next t) : DecoderOutcome s t := by
  obtain ⟨rc, data, rfl⟩ | ⟨-, rfl⟩ := execDecHasMore_cases h
  · exact respond_decoderOutcome _ _ s s.dec
  · exact continuePeek_decoderOutcome s

end Sys2Proof.Machine

/-!
PROOF. The channels around the core: one response a command, what each command leaves alone, and what it does when it
waits (spec 20_memory.md R50 to R66).
-/

namespace Sys2Proof.Machine

/-! ## Steps by the command in progress (R53, R55, R60, R241) -/

theorem step_of_no_command {s : State} (hrst : s.rst = false) (hp : s.progress = .idle) (hc : s.cmds = []) :
    step s = .next s := by
  simp [step, hrst, hp, acceptCommand, takeCommand, hc]

theorem step_of_fetch {s : State} {syms : List SymVal} (hrst : s.rst = false) (hp : s.progress = .fetch syms) :
    step s = .next (continueRead syms s) := by
  simp [step, hrst, hp]

theorem step_of_peek {s : State} (hrst : s.rst = false) (hp : s.progress = .peek) :
    step s = .next (continuePeek s) := by
  simp [step, hrst, hp]

theorem step_of_emit {s : State} {items : List OutItem} (hrst : s.rst = false) (hp : s.progress = .emit items) :
    step s = .next (emitThenOk items s) := by
  simp [step, hrst, hp, resumeEmit]

theorem step_of_respond {s : State} {w : Word} (hrst : s.rst = false) (hp : s.progress = .respond w) :
    step s = .next (sendResponse w s) := by
  simp [step, hrst, hp]

/-! ## One command, one response (R52, R54, R62) -/

/-- What a command does to the channels from its acceptance, or from a wait, up to its end or its next wait: it takes no
command word, and its one response is transferred or still to come. -/
structure OneResponse (s t : State) : Prop where
  cmds : t.cmds = s.cmds
  inp : t.inp <:+ s.inp
  out : s.out <+: t.out
  rsp : s.rsp <+: t.rsp
  count : t.rsp.length + (if t.progress = .idle then 0 else 1) = s.rsp.length + 1

/-- Whatever a command has done to the registers, the items it took and those it appended, one response remains. -/
theorem RespondsOrWaits.oneResponse {s u t : State} (h : RespondsOrWaits u t) (hcmds : u.cmds = s.cmds)
    (hinp : u.inp <:+ s.inp) (hout : s.out <+: u.out) (hrsp : u.rsp = s.rsp) : OneResponse s t := by
  obtain ⟨w, rfl⟩ | ⟨p, hp, rfl⟩ := h
  · refine ⟨by simpa using hcmds, by simpa using hinp, by simpa using hout, ?_, ?_⟩ <;>
      obtain ⟨-, h⟩ | ⟨-, h⟩ := sendResponse_cases w u <;> simp [h, hrsp]
  · exact ⟨hcmds, hinp, hout, by simp [hrsp], by simp [hp, hrsp]⟩

theorem respond_oneResponse {s u : State} (rc : ResultCode) (data : Acc) (hcmds : u.cmds = s.cmds)
    (hinp : u.inp = s.inp) (hout : u.out = s.out) (hrsp : u.rsp = s.rsp) : OneResponse s (respond rc data u) :=
  (respond_respondsOrWaits rc data u).oneResponse hcmds (hinp ▸ List.suffix_refl _) (hout ▸ List.prefix_refl _) hrsp

theorem emitThenOk_oneResponse (items : List OutItem) (s : State) (e : Enc) :
    OneResponse s (emitThenOk items (s.withEnc e)) :=
  (emitThenOk_respondsOrWaits items (s.withEnc e)).oneResponse rfl (List.suffix_refl _) (List.prefix_append _ _) rfl

theorem DecoderOutcome.oneResponse {s t : State} (h : DecoderOutcome s t) : OneResponse s t := by
  obtain ⟨d, l, hsuffix, h⟩ := h
  exact h.oneResponse rfl hsuffix (List.prefix_refl _) rfl

theorem execEncWrite_oneResponse {b : Byte} {s t : State} (h : execEncWrite b s = .next t) : OneResponse s t := by
  obtain rfl | rfl | ⟨a, rfl⟩ := execEncWrite_cases h
  · exact respond_oneResponse _ _ rfl rfl rfl rfl
  · exact respond_oneResponse _ _ rfl rfl rfl rfl
  · exact emitThenOk_oneResponse _ s _

theorem exec_oneResponse {i : Instr} {s t : State} (h : exec i s = .next t) : OneResponse s t := by
  obtain ⟨rc, data, c, rfl⟩ | ⟨b, hwrite⟩ | rfl | rfl | hread | hmore | ⟨m, rfl⟩ := exec_cases h
  · exact respond_oneResponse _ _ rfl rfl rfl rfl
  · exact execEncWrite_oneResponse hwrite
  · exact emitThenOk_oneResponse _ s s.enc
  · exact emitThenOk_oneResponse _ s _
  · exact (execDecRead_decoderOutcome hread).oneResponse
  · exact (execDecHasMore_decoderOutcome hmore).oneResponse
  · exact respond_oneResponse _ _ rfl rfl rfl rfl

/-- A step of a busy core goes on with its command. -/
theorem step_oneResponse_of_busy {s t : State} (hrst : s.rst = false) (hbusy : s.progress ≠ .idle)
    (h : step s = .next t) : OneResponse s t := by
  obtain ⟨hr, -⟩ | ⟨-, hp, -⟩ | ⟨w, rest, i, ⟨-, hp, -⟩, -⟩ | ⟨w, rest, e, ⟨-, hp, -⟩, -⟩ | ⟨syms, -, -, rfl⟩ |
    ⟨-, -, rfl⟩ | ⟨items, -, -, rfl⟩ | ⟨w, -, -, rfl⟩ := step_cases h
  · simp [hrst] at hr
  · exact absurd hp hbusy
  · exact absurd hp hbusy
  · exact absurd hp hbusy
  · exact (continueRead_decoderOutcome syms s).oneResponse
  · exact (continuePeek_decoderOutcome s).oneResponse
  · exact emitThenOk_oneResponse items s s.enc
  · exact RespondsOrWaits.oneResponse (.inl ⟨w, rfl⟩) rfl (List.suffix_refl _) (List.prefix_refl _) rfl

/-- A step of an idle core runs the next word, a command or Illegal, without it in the channel. -/
theorem step_oneResponse_of_idle {s t : State} {w : Word} {rest : List Word} (ha : s.accepting w rest)
    (h : step s = .next t) : OneResponse { s with cmds := rest } t := by
  cases hd : decode w with
  | ok i => exact exec_oneResponse ((step_of_accepting ha hd).symm.trans h)
  | error e =>
    cases (step_of_accepting_error ha hd).symm.trans h
    exact respond_oneResponse _ _ rfl rfl rfl rfl

/-- Settles O4: a command in progress, or the one just accepted, transfers its one response or still owes it. -/
theorem eachCommandHasOneResponse : Obligations.EachCommandHasOneResponse := by
  intro s t hrst h
  by_cases hidle : s.progress = .idle
  · cases hcmds : s.cmds with
    | nil =>
      cases (step_of_no_command hrst hidle hcmds).symm.trans h
      simp [hcmds]
    | cons w rest =>
      obtain ⟨hc, hinp, hout, hrsp, hcount⟩ := step_oneResponse_of_idle ⟨hrst, hidle, hcmds⟩ h
      refine ⟨hrsp, hout, hinp, hc ▸ List.suffix_cons w rest, ?_⟩
      simp only [hc, if_pos hidle, List.length_cons] at hcount ⊢
      omega
  · obtain ⟨hc, hinp, hout, hrsp, hcount⟩ := step_oneResponse_of_busy hrst hidle h
    refine ⟨hrsp, hout, hinp, hc ▸ List.suffix_refl _, ?_⟩
    rw [hc, if_neg hidle]
    omega

/-! ## Frames of the encoder and the decoder commands (R52, R61) -/

/-- Settles O27: an encoder command sets encoder registers, then appends and answers. -/
theorem encoderCommandsKeepDecoderAndInput : Obligations.EncoderCommandsKeepDecoderAndInput := by
  intro i s t hi h
  obtain ⟨items, e, hflush, rfl⟩ := exec_encoder_eq hi h
  have hout : s.out <+: (emitThenOk items (s.withEnc e)).out := emitThenOk_out_extends items (s.withEnc e)
  simpa using ⟨hout, hflush⟩

/-- The response and a wait touch the response channel and the command in progress alone. -/
theorem RespondsOrWaits.frame {u t : State} (h : RespondsOrWaits u t) :
    t = { u with rsp := t.rsp, rspReady := t.rspReady, progress := t.progress } := by
  obtain ⟨w, rfl⟩ | ⟨p, -, rfl⟩ := h
  · unfold sendResponse
    split <;> rfl
  · rfl

theorem exec_decoderOutcome {i : Instr} {s t : State} (hi : i = .decRead ∨ i = .decHasMore) (h : exec i s = .next t) :
    DecoderOutcome s t := by
  obtain rfl | rfl := hi
  · exact execDecRead_decoderOutcome h
  · exact execDecHasMore_decoderOutcome h

/-- Settles O42: what a decoder command does before its response or its wait is to the decoder and the input channel. -/
theorem decoderCommandsKeepEncoderAndOutput : Obligations.DecoderCommandsKeepEncoderAndOutput := by
  intro i s t hi h
  obtain ⟨d, l, hsuffix, hend⟩ := exec_decoderOutcome hi h
  rw [hend.frame]
  exact ⟨rfl, rfl, rfl, rfl, rfl, rfl, rfl, hsuffix⟩

/-! ## Items are taken by decoder commands alone (R52) -/

theorem exec_inp_of_not_decoder {i : Instr} {s t : State} (hread : i ≠ .decRead) (hmore : i ≠ .decHasMore)
    (h : exec i s = .next t) : t.inp = s.inp := by
  cases i
  case encWrite b => exact execEncWrite_inp h
  case encFlush => cases h; exact emitThenOk_inp _ _
  case encFinalize => cases h; exact emitThenOk_inp _ _
  case decRead => exact absurd rfl hread
  case decHasMore => exact absurd rfl hmore
  all_goals cases h; exact respond_inp _ _ _

/-- Settles O37: no other command, nor Illegal, a response or a reset touches the input channel. -/
theorem onlyDecoderCommandsTakeItems : Obligations.OnlyDecoderCommandsTakeItems := by
  intro s t h hinp
  obtain ⟨-, rfl⟩ | ⟨-, -, -, rfl⟩ | ⟨w, rest, i, ha, hd, hexec⟩ | ⟨w, rest, e, -, -, rfl⟩ | ⟨syms, -, hp, -⟩ |
    ⟨-, hp, -⟩ | ⟨items, -, -, rfl⟩ | ⟨w, -, -, rfl⟩ := step_cases h
  · exact absurd rfl hinp
  · exact absurd rfl hinp
  · refine .inr (.inr ⟨w, rest, ha, ?_⟩)
    by_contra hno
    obtain ⟨hread, hmore⟩ := not_or.1 hno
    exact hinp (exec_inp_of_not_decoder (s := { s with cmds := rest }) (fun hi => hread (hi ▸ hd))
      (fun hi => hmore (hi ▸ hd)) hexec)
  · exact absurd (respond_inp _ _ _) hinp
  · exact .inl ⟨syms, hp⟩
  · exact .inr (.inl hp)
  · exact absurd (emitThenOk_inp _ _) hinp
  · exact absurd (sendResponse_inp _ _) hinp

/-! ## Waiting on the output channel (R55) -/

/-- With a host that takes the response, an encoder command ends as before an environment that accepts every item, or
waits with the items left and then ends so (R55). -/
theorem emitThenOk_ends_or_waits (items : List OutItem) {s : State} (hrst : s.rst = false)
    (haccept : s.rspReady.accepts 1 = true) :
    (s.outReady.accepts items.length = true ∧ emitThenOk items s = (s.emitted items).answered 0) ∨
    ∃ k, s.outReady = .times k ∧ k < items.length ∧
      emitThenOk items s =
        { s with out := s.out ++ items.take k, outReady := .times 0, progress := .emit (items.drop k) } ∧
      step { emitThenOk items s with outReady := .always } =
        .next (emitThenOk items { s with outReady := .always }) := by
  obtain hall | ⟨k, hready, hk⟩ := s.outReady.accepts_or_times_lt items.length
  · exact .inl ⟨hall, emitThenOk_of_accepts hall haccept⟩
  · have hwait := emitThenOk_of_lt hready hk
    refine .inr ⟨k, hready, hk, hwait, ?_⟩
    rw [step_of_emit (items := items.drop k) (by simpa using hrst) (by rw [hwait]), hwait]
    exact congrArg _ (emitThenOk_resumed items k s _)

/-- Settles O29: the items an always-ready environment takes are those accepted, then those that wait. -/
theorem outputWaitKeepsItemsAndOrder : Obligations.OutputWaitKeepsItemsAndOrder := by
  refine ⟨fun i s t u hi hrst hrsp ht hu => ?_,
    fun s items hrst hp => ⟨fun hout => ⟨fun htaken => ?_, fun hheld => ?_⟩, fun k hready hk => ?_⟩⟩
  · obtain ⟨items, e, -, hexec⟩ := exec_encoder hi s
    cases (hexec s.outReady).symm.trans ht
    cases (hexec .always).symm.trans hu
    have haccept : s.rspReady.accepts 1 = true := by rw [hrsp]; rfl
    have hu := emitThenOk_of_accepts (s := { s with enc := e, outReady := .always }) (items := items) rfl haccept
    obtain ⟨-, ht⟩ | ⟨k, hready, hk, ht, hstep⟩ :=
      emitThenOk_ends_or_waits items (s := { s with enc := e }) hrst haccept
    · left
      rw [hu, ht]
      exact ⟨rfl, rfl, rfl, rfl⟩
    · refine .inr ⟨items.drop k, k, hready, ?_, List.drop_eq_nil_iff.not.2 (Nat.not_le.2 hk), ?_, ?_, ?_, hstep⟩
      · simp [ht, hk.le]
      · rw [ht]
      · simp [ht, hu]
      · rw [ht]
  · rw [step_of_emit hrst hp, emitThenOk_of_accepts hout htaken]
    rfl
  · rw [step_of_emit hrst hp, emitThenOk_of_outReady hout, respond_of_not_accepts (s := s.emitted items) _ _ hheld]
    rfl
  · rw [step_of_emit hrst hp, emitThenOk_of_lt hready hk]

/-! ## DEC_HAS_MORE again (R61, R156) -/

/-- An answer that has transferred and that the state it leaves gives again. -/
theorem decHasMore_again {t u : State} {rc : ResultCode} {data : Acc} {r : Word} (ht : t = respond rc data u)
    (hrsp : t.rsp = u.rsp ++ [r]) (hready : t.rspReady.accepts 1 = true)
    (hagain : execDecHasMore t = .next (respond rc data t)) :
    ∃ v, exec .decHasMore t = .next v ∧ v.rsp = t.rsp ++ [r] ∧ v.inp = t.inp ∧ v.dec = t.dec := by
  have hr : responseWord rc data = r := responseWord_eq_of_respond_rsp (ht ▸ hrsp)
  refine ⟨_, hagain, ?_, respond_inp _ _ _, respond_dec _ _ _⟩
  rw [respond_of_accepts _ _ hready, hr, State.answered_rsp]

/-- Settles O40: the answer comes from registers it keeps, from the end of the stream it remembers, or from a byte it
leaves in the channel. -/
theorem decHasMoreRepeats : Obligations.DecHasMoreRepeats := by
  intro s t r h hrsp hready
  cases hwants : s.dec.wantsInput with
  | false =>
    obtain ⟨rc, data, hanswer⟩ := execDecHasMore_of_not_wantsInput hwants
    have ht : t = respond rc data s := Host.Outcome.next.inj (h.symm.trans (hanswer s rfl))
    exact decHasMore_again ht hrsp hready (hanswer t (by simp [ht]))
  | true =>
    have ht : t = continuePeek s := Host.Outcome.next.inj (h.symm.trans (execDecHasMore_of_wantsInput hwants))
    cases hinp : s.inp with
    | nil => simp [ht, continuePeek_of_nil hinp] at hrsp
    | cons it rest =>
      cases it with
      | endOfStream =>
        rw [continuePeek_of_endOfStream hinp] at ht
        exact decHasMore_again ht hrsp hready (execDecHasMore_of_endTaken hwants (by simp [ht]))
      | byte b =>
        rw [continuePeek_of_byte hinp] at ht
        have hdec : t.dec = s.dec := by simp [ht]
        have hinp' : t.inp = .byte b :: rest := by simp [ht, hinp]
        exact decHasMore_again ht hrsp hready
          ((execDecHasMore_of_wantsInput (hdec ▸ hwants)).trans (congrArg _ (continuePeek_of_byte hinp')))

/-! ## Waiting on the input channel (R53, R59) -/

/-- DEC_READ with nothing pending and no error fetches a group (R153). -/
theorem execDecRead_of_not_pending {s : State} (herr : s.dec.err = false) (hpending : s.dec.pending = false) :
    execDecRead s = .next (continueRead [] s) := by
  simp [execDecRead, herr, hpending]

/-- A fetch that takes all there is and waits leaves the decoder as it was (R53). -/
theorem endRead_of_wait {s : State} (hexh : s.dec.exhausted = false) (vs : List SymVal) :
    endRead ⟨.wait vs, false, []⟩ s = { s with inp := [], progress := .fetch vs } := by
  have hdec : s.dec.setExhausted false = s.dec := hexh ▸ s.dec.setExhausted_self
  simp only [endRead, State.afterFetch, hdec]
  rfl

/-- Settles O44: the run is fetched whole, then the skip bytes behind it, and a symbol is still wanted. -/
theorem decReadWaitsForItems : Obligations.DecReadWaitsForItems := by
  intro s g gap herr hfill hexh hvalid hlen hgap hinp
  have hpending : s.dec.pending = false := by
    rw [Bool.eq_false_iff, ne_eq, Dec.pending_iff]
    omega
  obtain ⟨todo, htodo⟩ : ∃ todo, 4 = todo + 1 + List.length g := ⟨3 - List.length g, by omega⟩
  have hfetch : fetchGroup s.cfg 4 [] s.dec.exhausted s.inp = ⟨.wait (SymRun.values g), false, []⟩ := by
    have hskips : ∀ b ∈ gap, isSkip b = true := fun b hb => by simpa [isSkip] using hgap b hb
    rw [hexh, hinp, htodo, fetchGroup_run _ hvalid, fetchGroup_skips_wait _ _ _ hskips]
    rfl
  show execDecRead s = _
  rw [execDecRead_of_not_pending herr hpending, continueRead_nil, hfetch, endRead_of_wait hexh]

/-- A DEC_READ that waits had neither an error nor a byte pending, and its group fetch took every item (R53, R153). -/
theorem execDecRead_fetch {s t : State} {syms : List SymVal} (h : execDecRead s = .next t)
    (hp : t.progress = .fetch syms) :
    s.dec.err = false ∧ s.dec.pending = false ∧
      (fetchGroup s.cfg 4 [] s.dec.exhausted s.inp).verdict = .wait syms ∧
      t = (s.afterFetch (fetchGroup s.cfg 4 [] s.dec.exhausted s.inp)).withProgress (.fetch syms) := by
  obtain ⟨-, rfl⟩ | ⟨-, -, rfl⟩ | ⟨herr, hpending, rfl⟩ := execDecRead_cases h
  · exact absurd hp (respond_progress_ne_fetch _ _ _ _)
  · exact absurd hp (respond_progress_ne_fetch _ _ _ _)
  · rw [continueRead_nil] at hp ⊢
    obtain ⟨rc, data, d, hend⟩ | ⟨ws, hwait, hend⟩ := endRead_cases (fetchGroup s.cfg 4 [] s.dec.exhausted s.inp) s
    · exact absurd (hend ▸ hp) (respond_progress_ne_fetch _ _ _ _)
    · rw [hend] at hp
      cases hp
      exact ⟨herr, hpending, hwait, hend⟩

/-- A resumed DEC_READ makes the rest of the fetch it would have made had all the items been there (R53, R59). -/
theorem decRead_resumes {s t : State} {syms : List SymVal} (b : List InItem) (hrst : s.rst = false)
    (h : exec .decRead s = .next t) (hp : t.progress = .fetch syms) :
    step (deliver b t) = exec .decRead (s.withInp (s.inp ++ b)) := by
  obtain ⟨herr, hpending, hwait, ht⟩ := execDecRead_fetch h hp
  obtain ⟨hrest, htaken⟩ := fetchGroup_append_of_wait b hwait
  obtain ⟨-, hexh⟩ := fetchGroup_wait hwait
  have hresumed : continueRead syms (deliver b t) = continueRead [] (s.withInp (s.inp ++ b)) := by
    rw [continueRead_eq_endRead, continueRead_nil, endRead_withInp, ht]
    simp [deliver, endRead_resumed, hexh, htaken, hrest]
  rw [step_of_fetch (s := deliver b t) (by simpa [deliver, ht] using hrst) hp, hresumed]
  exact (execDecRead_of_not_pending (s := s.withInp (s.inp ++ b)) herr hpending).symm

/-- A DEC_HAS_MORE that waits changed nothing else (R53, R156). -/
theorem execDecHasMore_peek {s t : State} (h : execDecHasMore s = .next t) (hp : t.progress = .peek) :
    s.dec.wantsInput = true ∧ t = s.withProgress .peek := by
  obtain ⟨rc, data, rfl⟩ | ⟨hwants, rfl⟩ := execDecHasMore_cases h
  · exact absurd hp (respond_progress_ne_peek _ _ _)
  · rcases continuePeek_cases s with hend | hend | hend
    · exact ⟨hwants, hend⟩
    · exact absurd (hend ▸ hp) (respond_progress_ne_peek _ _ _)
    · exact absurd (hend ▸ hp) (respond_progress_ne_peek _ _ _)

/-- A resumed DEC_HAS_MORE looks at the first item delivered, the channel having been empty (R53, R156). -/
theorem decHasMore_resumes {s t : State} (b : List InItem) (hrst : s.rst = false) (h : exec .decHasMore s = .next t)
    (hp : t.progress = .peek) : step (deliver b t) = exec .decHasMore (s.withInp (s.inp ++ b)) := by
  obtain ⟨hwants, ht⟩ := execDecHasMore_peek h hp
  have hsame : deliver b t = (s.withInp (s.inp ++ b)).withProgress .peek := by rw [ht]; rfl
  rw [step_of_peek (s := deliver b t) (by simpa [deliver, ht] using hrst) hp, hsame, continuePeek_withProgress]
  exact (execDecHasMore_of_wantsInput (s := s.withInp (s.inp ++ b)) hwants).symm

/-- Settles O45: both commands go on with the items delivered as if these had been there. -/
theorem decReadResumesWithLaterItems : Obligations.DecReadResumesWithLaterItems := by
  intro s t a b hrst ha
  subst ha
  exact ⟨fun syms h hp => decRead_resumes b hrst h hp, fun h hp => decHasMore_resumes b hrst h hp⟩

/-! ## Accepting and not accepting a command (R60, R62, R246) -/

/-- Settles O1: the step rule of an idle core, for a word that decodes. -/
theorem stepRunsDecodedCommand : Obligations.StepRunsDecodedCommand :=
  fun _ _ _ _ ha hd => step_of_accepting ha hd

/-- Settles O2: a busy core goes on with its command, which takes no word, or is reset. -/
theorem busyCoreTakesNoCommand : Obligations.BusyCoreTakesNoCommand := by
  intro s t hbusy h
  cases hrst : s.rst with
  | true =>
    simp only [step, hrst, if_true] at h
    cases h
    exact resetEdge_cmds s
  | false => exact (step_oneResponse_of_busy hrst hbusy h).cmds

/-! ## No step of a core that waits (R53, R55, R241, R246) -/

/-- Settles O46: each kind of wait meets its channel as it was. -/
theorem waitingCoreMakesNoStep : Obligations.WaitingCoreMakesNoStep := by
  intro s hrst
  refine ⟨step_of_no_command hrst, fun syms hp hlen hexh hinp => ?_, fun hp hinp => ?_,
    fun items hp hitems hready => ?_, fun w hp hready => ?_⟩
  · obtain ⟨todo, htodo⟩ : ∃ todo, 4 - syms.length = todo + 1 := ⟨3 - syms.length, by omega⟩
    have hfetch : fetchGroup s.cfg (4 - syms.length) syms s.dec.exhausted s.inp = ⟨.wait syms, false, []⟩ := by
      rw [htodo, hexh, hinp]
      exact fetchGroup_skips_wait s.cfg todo syms (gap := []) (by simp)
    rw [step_of_fetch hrst hp, continueRead_eq_endRead, hfetch, endRead_of_wait hexh, ← hinp, ← hp]
  · rw [step_of_peek hrst hp, continuePeek_of_nil hinp, ← hp]
    rfl
  · rw [step_of_emit hrst hp, emitThenOk_of_lt hready (List.length_pos_of_ne_nil hitems)]
    simp [← hp, ← hready]
  · have hheld : s.rspReady.accepts 1 = false := by rw [hready]; rfl
    rw [step_of_respond hrst hp, sendResponse_of_not_accepts w hheld, ← hp]
    rfl

/-! ## Ports and pins (R66) -/

/-- Settles O48: by the command in progress, each level read off its own case. -/
theorem portLevelsFollowProgress : Obligations.PortLevelsFollowProgress := by
  intro s
  cases hrst : s.rst with
  | true => simp [cmdReady, rspPort, inReady, outPort, hrst]
  | false =>
    cases hp : s.progress with
    | emit items => cases items <;> simp [cmdReady, rspPort, inReady, outPort, hrst, hp]
    | _ => simp [cmdReady, rspPort, inReady, outPort, hrst, hp]

/-- `out_kind` and `out_data` tell all items apart (R66). -/
theorem OutItem.eq_of_kind_of_data {a b : OutItem} (hkind : a.kind = b.kind) (hdata : a.data = b.data) : a = b := by
  cases a <;> cases b <;> simp_all [OutItem.kind, OutItem.data]

/-- Settles O60: by the kind of the item. -/
theorem pinsCarryItems : Obligations.PinsCarryItems := by
  refine ⟨fun b => ⟨rfl, rfl⟩, rfl, rfl, fun it => ?_, fun a b => OutItem.eq_of_kind_of_data, fun d => ⟨rfl, rfl⟩⟩
  cases it <;> simp [OutItem.kind, OutItem.data]

end Sys2Proof.Machine

/-!
PROOF. The decoder and the encoder: a word decodes to a command exactly when it is the word of that command (spec
30_encoding.md R70 to R77, R81).
-/

namespace Sys2Proof

/-! ## What the decoder answers for the fields of a command's word -/

@[simp] theorem regAt_index (r : Reg) : regAt r.index = some r := (regAt_some_iff _ r).2 rfl

@[simp] theorem byteOperand_setWidth (b : Byte) : byteOperand (b.setWidth 24) = some b :=
  (byteOperand_some_iff _ b).2 rfl

@[simp] theorem lineLenOperand_setWidth (l : LineLen) : lineLenOperand (l.setWidth 24) = some l :=
  (lineLenOperand_some_iff _ l).2 rfl

@[simp] theorem maskOperand_setWidth (m : BitVec 3) : maskOperand (m.setWidth 24) = some m :=
  (maskOperand_some_iff _ m).2 rfl

@[simp] theorem decodeOperand_some {α : Type} (x : α) (f : α → Instr) : decodeOperand (some x) f = .ok (f x) := rfl

/-- The word of a command decodes to the command: operands by their fields, the other words one by one (R73, R76). -/
theorem decode_encode (i : Instr) : decode (encode i) = .ok i := by
  cases i
  case encWrite b => simp [encode, decode]
  case cfgWriteSym62 val => simp [encode, decode, decodeCfgWrite]
  case cfgWriteSym63 val => simp [encode, decode, decodeCfgWrite]
  case cfgWritePad val => simp [encode, decode, decodeCfgWrite]
  case cfgWriteLineLen val => simp [encode, decode, decodeCfgWrite]
  case srst m => simp [encode, decode]
  all_goals decide

/-! ## The word a command was decoded from (R81) -/

theorem encode_of_decodeBare {op idx : BitVec 4} {imm : BitVec 24} {i j : Instr} (hi : encode i = commandWord op 0 0)
    (h : decodeBare idx imm i = .ok j) : encode j = commandWord op idx imm := by
  unfold decodeBare at h
  split at h
  · next hzero =>
    obtain ⟨rfl, rfl⟩ := hzero
    cases h
    exact hi
  · cases h

/-- A command with an operand in IMM, the operand being read as `operand` reads it (R73). -/
theorem encode_of_decodeOperand {op idx : BitVec 4} {imm : BitVec 24} {n : Nat} {operand : Option (BitVec n)}
    {f : BitVec n → Instr} {j : Instr} (hoperand : ∀ x, operand = some x ↔ imm = x.setWidth 24)
    (hf : ∀ x, encode (f x) = commandWord op idx (x.setWidth 24)) (h : decodeOperand operand f = .ok j) :
    encode j = commandWord op idx imm := by
  cases ho : operand with
  | none => simp [decodeOperand, ho] at h
  | some x =>
    rw [ho, decodeOperand_some] at h
    cases h
    rw [hf, (hoperand x).1 ho]

theorem encode_of_decodeCfgWrite {idx : BitVec 4} {imm : BitVec 24} {j : Instr} (h : decodeCfgWrite idx imm = .ok j) :
    encode j = commandWord 0x6#4 idx imm := by
  cases hreg : regAt idx with
  | none => simp [decodeCfgWrite, hreg] at h
  | some r =>
    obtain rfl := (regAt_some_iff idx r).1 hreg
    cases r <;> simp only [decodeCfgWrite, regAt_index, reduceCtorEq] at h
    case lineLen => exact encode_of_decodeOperand (lineLenOperand_some_iff imm) (fun _ => rfl) h
    all_goals exact encode_of_decodeOperand (byteOperand_some_iff imm) (fun _ => rfl) h

theorem encode_cfgReadOf (r : Reg) : encode (cfgReadOf r) = commandWord 0x7#4 r.index 0 := by
  cases r <;> rfl

theorem encode_of_decodeCfgRead {idx : BitVec 4} {imm : BitVec 24} {j : Instr} (h : decodeCfgRead idx imm = .ok j) :
    encode j = commandWord 0x7#4 idx imm := by
  unfold decodeCfgRead at h
  split at h
  · next r hreg =>
    obtain rfl := (regAt_some_iff _ _).1 hreg
    split at h <;> cases h
    next hzero => rw [hzero, encode_cfgReadOf]
  · cases h

/-- By opcode: each family's own inversion. -/
theorem encode_of_decode {w : Word} {i : Instr} (h : decode w = .ok i) : encode i = w := by
  rw [← commandWord_fields w]
  simp only [decode] at h
  split_ifs at h with h0 h1 hidx h2 h3 h4 h5 h6 h7 h8 hidx
  · exact h0 ▸ encode_of_decodeBare rfl h
  · exact h1 ▸ hidx ▸ encode_of_decodeOperand (byteOperand_some_iff _) (fun _ => rfl) h
  · exact h2 ▸ encode_of_decodeBare rfl h
  · exact h3 ▸ encode_of_decodeBare rfl h
  · exact h4 ▸ encode_of_decodeBare rfl h
  · exact h5 ▸ encode_of_decodeBare rfl h
  · exact h6 ▸ encode_of_decodeCfgWrite h
  · exact h7 ▸ encode_of_decodeCfgRead h
  · exact h8 ▸ hidx ▸ encode_of_decodeOperand (maskOperand_some_iff _) (fun _ => rfl) h

theorem decode_eq_ok_iff (w : Word) (i : Instr) : decode w = .ok i ↔ encode i = w :=
  ⟨encode_of_decode, fun h => h ▸ decode_encode i⟩

/-- Settles O6: by the command. -/
theorem decodeOfEncodeIsSame : Obligations.DecodeOfEncodeIsSame := decode_encode

/-- Settles O7: by the opcode of the word. -/
theorem encodeOfDecodedWordIsSame : Obligations.EncodeOfDecodedWordIsSame := fun _ _ => encode_of_decode

end Sys2Proof

/-!
PROOF. The words that decode are those that keep the field constraints, and every other raises Illegal: malformed words,
reserved opcodes, reserved indices (spec 30_encoding.md R77 to R79, R81; 60_exceptions.md R211).
-/

namespace Sys2Proof

/-! ## The words that decode (R77) -/

/-- Command by command. -/
theorem wordWellFormed_encode : (i : Instr) → wordWellFormed (encode i) = true
  | .nop => Laws.EncodedWordLegal.nop
  | .encWrite b => Laws.EncodedWordLegal.encWrite b
  | .encFlush => Laws.EncodedWordLegal.encFlush
  | .encFinalize => Laws.EncodedWordLegal.encFinalize
  | .decRead => Laws.EncodedWordLegal.decRead
  | .decHasMore => Laws.EncodedWordLegal.decHasMore
  | .cfgWriteSym62 val => Laws.EncodedWordLegal.cfgWriteSym62 val
  | .cfgWriteSym63 val => Laws.EncodedWordLegal.cfgWriteSym63 val
  | .cfgWritePad val => Laws.EncodedWordLegal.cfgWritePad val
  | .cfgWriteLineLen val => Laws.EncodedWordLegal.cfgWriteLineLen val
  | .cfgReadSym62 => Laws.EncodedWordLegal.cfgReadSym62
  | .cfgReadSym63 => Laws.EncodedWordLegal.cfgReadSym63
  | .cfgReadPad => Laws.EncodedWordLegal.cfgReadPad
  | .cfgReadLineLen => Laws.EncodedWordLegal.cfgReadLineLen
  | .cfgReadLineThresh => Laws.EncodedWordLegal.cfgReadLineThresh
  | .cfgReadEncState => Laws.EncodedWordLegal.cfgReadEncState
  | .cfgReadEncAcc => Laws.EncodedWordLegal.cfgReadEncAcc
  | .cfgReadDecState => Laws.EncodedWordLegal.cfgReadDecState
  | .cfgReadDecAcc => Laws.EncodedWordLegal.cfgReadDecAcc
  | .cfgReadId => Laws.EncodedWordLegal.cfgReadId
  | .srst m => Laws.EncodedWordLegal.srst m

/-- A field whose number fits `k` bits is the zero extension of `k` bits (R73). -/
theorem exists_setWidth_eq {n k : Nat} (hk : k ≤ n) {x : BitVec n} (h : x.toNat < 2 ^ k) :
    ∃ v : BitVec k, v.setWidth n = x := by
  refine ⟨x.setWidth k, BitVec.eq_of_toNat_eq ?_⟩
  rw [BitVec.toNat_setWidth_of_le hk, BitVec.toNat_setWidth, Nat.mod_eq_of_lt h]

/-- The indices below 0xA are those of registers (R80). -/
theorem exists_index_eq {idx : BitVec 4} (h : idx.toNat < 10) : ∃ r : Reg, r.index = idx := by
  have hsome : (regAt idx).isSome = true := by revert h; revert idx; decide
  obtain ⟨r, hr⟩ := Option.isSome_iff_exists.1 hsome
  exact ⟨r, ((regAt_some_iff idx r).1 hr).symm⟩

/-- Fields equal to those of a command without an operand are that command's. -/
theorem exists_encode_of_imm_zero {opcode index op idx : BitVec 4} {imm : BitVec 24} {i : Instr}
    (hi : encode i = commandWord opcode index 0) (hop : op.toNat = opcode.toNat) (hidx : idx.toNat = index.toNat)
    (himm : imm.toNat = 0) : ∃ i, encode i = commandWord op idx imm := by
  rw [BitVec.eq_of_toNat_eq hop, BitVec.eq_of_toNat_eq hidx, show imm = 0 from BitVec.eq_of_toNat_eq himm]
  exact ⟨i, hi⟩

/-- Fields equal to those of a command with an operand of `k` bits, up to the operand, are that command's for the
operand they hold. -/
theorem exists_encode_of_imm_lt {opcode index op idx : BitVec 4} {imm : BitVec 24} {k : Nat} {f : BitVec k → Instr}
    (hk : k ≤ 24) (hf : ∀ x, encode (f x) = commandWord opcode index (x.setWidth 24))
    (hop : op.toNat = opcode.toNat) (hidx : idx.toNat = index.toNat) (himm : imm.toNat < 2 ^ k) :
    ∃ i, encode i = commandWord op idx imm := by
  obtain ⟨x, rfl⟩ := exists_setWidth_eq hk himm
  rw [BitVec.eq_of_toNat_eq hop, BitVec.eq_of_toNat_eq hidx]
  exact ⟨f x, hf x⟩

/-- Fields that keep their opcode's constraint are those of a command, by opcode (R77). -/
theorem exists_encode_of_fieldsWellFormed {op idx : BitVec 4} {imm : BitVec 24}
    (h : fieldsWellFormed op.toNat idx.toNat imm.toNat = true) : ∃ i, encode i = commandWord op idx imm := by
  unfold fieldsWellFormed at h
  split at h <;>
    simp only [Bool.or_eq_true, Bool.and_eq_true, beq_iff_eq, decide_eq_true_eq, Bool.false_eq_true] at h
  · next hop => exact exists_encode_of_imm_zero (i := .nop) rfl hop h.1 h.2
  · next hop => exact exists_encode_of_imm_zero (i := .encFlush) rfl hop h.1 h.2
  · next hop => exact exists_encode_of_imm_zero (i := .encFinalize) rfl hop h.1 h.2
  · next hop => exact exists_encode_of_imm_zero (i := .decRead) rfl hop h.1 h.2
  · next hop => exact exists_encode_of_imm_zero (i := .decHasMore) rfl hop h.1 h.2
  · next hop => exact exists_encode_of_imm_lt (f := .encWrite) (by decide) (fun _ => rfl) hop h.1 h.2
  · next hop =>
    obtain ⟨hidx, himm⟩ | ⟨hidx, himm⟩ := h
    · obtain hidx | hidx | hidx : idx.toNat = 0 ∨ idx.toNat = 1 ∨ idx.toNat = 2 := by omega
      · exact exists_encode_of_imm_lt (f := .cfgWriteSym62) (by decide) (fun _ => rfl) hop hidx himm
      · exact exists_encode_of_imm_lt (f := .cfgWriteSym63) (by decide) (fun _ => rfl) hop hidx himm
      · exact exists_encode_of_imm_lt (f := .cfgWritePad) (by decide) (fun _ => rfl) hop hidx himm
    · exact exists_encode_of_imm_lt (f := .cfgWriteLineLen) (by decide) (fun _ => rfl) hop hidx himm
  · next hop =>
    obtain ⟨r, hr⟩ := exists_index_eq h.1
    exact exists_encode_of_imm_zero (encode_cfgReadOf r) hop (hr ▸ rfl) h.2
  · next hop => exact exists_encode_of_imm_lt (f := .srst) (by decide) (fun _ => rfl) hop h.1 h.2

theorem decodes_iff_wordWellFormed (w : Word) : (∃ i, decode w = .ok i) ↔ wordWellFormed w = true := by
  constructor
  · rintro ⟨i, hi⟩
    exact encode_of_decode hi ▸ wordWellFormed_encode i
  · intro h
    obtain ⟨i, hi⟩ := exists_encode_of_fieldsWellFormed (wordWellFormed_fields w ▸ h)
    exact ⟨i, (decode_eq_ok_iff w i).2 (hi.trans (commandWord_fields w))⟩

end Sys2Proof

namespace Sys2Proof.Machine

/-! ## A word that does not decode raises Illegal (R77 to R79, R211) -/

theorem raisesIllegal_of_decode_error {w : Word} {e : DecodeError} (h : decode w = .error e) : raisesIllegal w := by
  intro s rest ha
  rw [step_of_accepting_error ha h, raise_illegal]
  exact ⟨fun htaken => congrArg _ (respond_of_accepts (s := { s with cmds := rest }) _ _ htaken),
    fun hheld => congrArg _ (respond_of_not_accepts (s := { s with cmds := rest }) _ _ hheld)⟩

theorem raisesIllegal_of_malformed {w : Word} (h : wordWellFormed w = false) : raisesIllegal w := by
  cases hd : decode w with
  | ok i => simp [(decodes_iff_wordWellFormed w).1 ⟨i, hd⟩] at h
  | error e => exact raisesIllegal_of_decode_error hd

/-- Settles O8: a word that keeps the constraints is the word of a command, and any other does not decode. -/
theorem malformedWordRaisesIllegal : Obligations.MalformedWordRaisesIllegal :=
  fun w => ⟨decodes_iff_wordWellFormed w, raisesIllegal_of_malformed⟩

theorem fieldsWellFormed_reservedOpcode {op : Nat} (hop : 9 ≤ op) (idx imm : Nat) :
    fieldsWellFormed op idx imm = false := by
  obtain ⟨n, rfl⟩ := Nat.exists_eq_add_of_le' hop
  rfl

/-- Settles O10: no field constraint admits a reserved opcode. -/
theorem reservedOpcodeRaisesIllegal : Obligations.ReservedOpcodeRaisesIllegal := by
  intro w hop
  apply raisesIllegal_of_malformed
  rw [wordWellFormed_fields, fieldsWellFormed_reservedOpcode hop]

/-- Settles O11: CFG_WRITE's constraint admits indices below 4, CFG_READ's below 10. -/
theorem reservedIndexRaisesIllegal : Obligations.ReservedIndexRaisesIllegal := by
  refine fun w => ⟨fun hop hidx => raisesIllegal_of_malformed ?_, fun hop hidx => raisesIllegal_of_malformed ?_⟩
  · have hlow : ¬ (idxField w).toNat < 3 := by omega
    have hline : (idxField w).toNat ≠ 3 := by omega
    simp [wordWellFormed_fields, hop, fieldsWellFormed, hlow, hline]
  · have hlow : ¬ (idxField w).toNat < 10 := by omega
    simp [wordWellFormed_fields, hop, fieldsWellFormed, hlow]

end Sys2Proof.Machine

/-!
PROOF. The opcode map: each of its rows covers the words of one command, and every command has its row (spec
30_encoding.md R76, R84).
-/

namespace Sys2Proof

/-! ## The words a row covers -/

/-- The words that have the fields OP and IDX and, in IMM, zeros above the lowest `k` bits are those with an operand of
`k` bits (R73). -/
theorem and_mask_eq_iff {op idx : BitVec 4} {k : Nat} (hk : k ≤ 24) (w : Word) :
    w &&& (BitVec.allOnes 32 <<< k) = commandWord op idx 0 ↔
      ∃ x : BitVec k, commandWord op idx (x.setWidth 24) = w := by
  have hmask : (w &&& (BitVec.allOnes 32 <<< k)).toNat = w.toNat / 2 ^ k * 2 ^ k := by
    rw [← BitVec.shiftLeft_ushiftRight, BitVec.toNat_shiftLeft, BitVec.toNat_ushiftRight, Nat.shiftRight_eq_div_pow,
      Nat.shiftLeft_eq]
    exact Nat.mod_eq_of_lt ((Nat.div_mul_le_self _ _).trans_lt w.isLt)
  have hpattern : (commandWord op idx 0).toNat = (op.toNat * 16 + idx.toNat) * 2 ^ (24 - k) * 2 ^ k := by
    rw [commandWord_toNat, Nat.mul_assoc, ← Nat.pow_add, Nat.sub_add_cancel hk]
    simp; omega
  have hword (x : BitVec k) : (commandWord op idx (x.setWidth 24)).toNat = (commandWord op idx 0).toNat + x.toNat := by
    rw [commandWord_toNat, commandWord_toNat, BitVec.toNat_setWidth_of_le hk]
    simp
  constructor
  · intro h
    refine ⟨w.setWidth k, BitVec.eq_of_toNat_eq ?_⟩
    rw [hword, ← h, hmask, BitVec.toNat_setWidth, Nat.div_add_mod']
  · rintro ⟨x, rfl⟩
    apply BitVec.eq_of_toNat_eq
    rw [hmask, hword, hpattern, Nat.add_comm, Nat.add_mul_div_right _ _ (Nat.two_pow_pos k),
      Nat.div_eq_of_lt x.isLt, Nat.zero_add]

/-- A row without an operand covers the word of its command. -/
theorem covers_fixed_iff (m : String) (p w : Word) : OpcodeRow.covers ⟨m, p, 0xFFFFFFFF⟩ w = true ↔ p = w := by
  rw [OpcodeRow.covers, beq_iff_eq, show (0xFFFFFFFF : Word) = BitVec.allOnes 32 by decide, BitVec.and_allOnes, eq_comm]

/-- A row with an operand of `k` bits covers the words of its command. -/
theorem covers_operand_iff {op idx : BitVec 4} {k : Nat} {f : BitVec k → Instr} {m : String} {p mask : Word}
    (hf : ∀ x, encode (f x) = commandWord op idx (x.setWidth 24)) (hk : k ≤ 24) (hp : p = commandWord op idx 0)
    (hmask : mask = BitVec.allOnes 32 <<< k) (w : Word) :
    OpcodeRow.covers ⟨m, p, mask⟩ w = true ↔ ∃ x, encode (f x) = w := by
  simp only [OpcodeRow.covers, beq_iff_eq, hp, hmask, and_mask_eq_iff hk, hf]

theorem covers_encWrite_iff : ∀ w, OpcodeRow.covers ⟨"ENC_WRITE", 0x10000000, 0xFFFFFF00⟩ w = true ↔
    ∃ b, encode (.encWrite b) = w :=
  covers_operand_iff (fun _ => rfl) (by decide) (by decide) (by decide)

theorem covers_cfgWriteSym62_iff : ∀ w, OpcodeRow.covers ⟨"CFG_WRITE_SYM62", 0x60000000, 0xFFFFFF00⟩ w = true ↔
    ∃ val, encode (.cfgWriteSym62 val) = w :=
  covers_operand_iff (fun _ => rfl) (by decide) (by decide) (by decide)

theorem covers_cfgWriteSym63_iff : ∀ w, OpcodeRow.covers ⟨"CFG_WRITE_SYM63", 0x61000000, 0xFFFFFF00⟩ w = true ↔
    ∃ val, encode (.cfgWriteSym63 val) = w :=
  covers_operand_iff (fun _ => rfl) (by decide) (by decide) (by decide)

theorem covers_cfgWritePad_iff : ∀ w, OpcodeRow.covers ⟨"CFG_WRITE_PAD", 0x62000000, 0xFFFFFF00⟩ w = true ↔
    ∃ val, encode (.cfgWritePad val) = w :=
  covers_operand_iff (fun _ => rfl) (by decide) (by decide) (by decide)

theorem covers_cfgWriteLineLen_iff : ∀ w, OpcodeRow.covers ⟨"CFG_WRITE_LINE_LEN", 0x63000000, 0xFFFF0000⟩ w = true ↔
    ∃ val, encode (.cfgWriteLineLen val) = w :=
  covers_operand_iff (fun _ => rfl) (by decide) (by decide) (by decide)

theorem covers_srst_iff : ∀ w, OpcodeRow.covers ⟨"SRST", 0x80000000, 0xFFFFFFF8⟩ w = true ↔
    ∃ m, encode (.srst m) = w :=
  covers_operand_iff (fun _ => rfl) (by decide) (by decide) (by decide)

/-! ## Rows and commands -/

/-- The row covers words of its own command alone. -/
def OpcodeRow.CoversItsCommand (r : OpcodeRow) : Prop :=
  ∀ w, r.covers w = true → ∃ i, encode i = w ∧ r.mnemonic = mnemonicOf i

theorem coversItsCommand_fixed {m : String} {p : Word} (i : Instr) (hp : encode i = p) (hm : m = mnemonicOf i) :
    OpcodeRow.CoversItsCommand ⟨m, p, 0xFFFFFFFF⟩ :=
  fun w h => ⟨i, hp.trans ((covers_fixed_iff m p w).1 h), hm⟩

theorem coversItsCommand_operand {k : Nat} {r : OpcodeRow} {f : BitVec k → Instr}
    (hr : ∀ w, r.covers w = true ↔ ∃ x, encode (f x) = w) (hm : ∀ x, r.mnemonic = mnemonicOf (f x)) :
    r.CoversItsCommand := by
  intro w h
  obtain ⟨x, hx⟩ := (hr w).1 h
  exact ⟨f x, hx, hm x⟩

theorem opcodeMap_coversItsCommand : ∀ r ∈ opcodeMap, r.CoversItsCommand := by
  simp only [opcodeMap, opcodeMapCore, opcodeMapCfgWrite, opcodeMapCfgRead, List.forall_mem_append,
    List.forall_mem_cons]
  refine ⟨⟨⟨⟨?_, ?_, ?_, ?_, ?_, ?_, nofun⟩, ⟨?_, ?_, ?_, ?_, nofun⟩⟩, ⟨?_, ?_, ?_, ?_, ?_, ?_, ?_, ?_, ?_, ?_, nofun⟩⟩,
    ⟨?_, nofun⟩⟩
  · exact coversItsCommand_fixed .nop (by decide) rfl
  · exact coversItsCommand_operand covers_encWrite_iff fun _ => rfl
  · exact coversItsCommand_fixed .encFlush (by decide) rfl
  · exact coversItsCommand_fixed .encFinalize (by decide) rfl
  · exact coversItsCommand_fixed .decRead (by decide) rfl
  · exact coversItsCommand_fixed .decHasMore (by decide) rfl
  · exact coversItsCommand_operand covers_cfgWriteSym62_iff fun _ => rfl
  · exact coversItsCommand_operand covers_cfgWriteSym63_iff fun _ => rfl
  · exact coversItsCommand_operand covers_cfgWritePad_iff fun _ => rfl
  · exact coversItsCommand_operand covers_cfgWriteLineLen_iff fun _ => rfl
  · exact coversItsCommand_fixed .cfgReadSym62 (by decide) rfl
  · exact coversItsCommand_fixed .cfgReadSym63 (by decide) rfl
  · exact coversItsCommand_fixed .cfgReadPad (by decide) rfl
  · exact coversItsCommand_fixed .cfgReadLineLen (by decide) rfl
  · exact coversItsCommand_fixed .cfgReadLineThresh (by decide) rfl
  · exact coversItsCommand_fixed .cfgReadEncState (by decide) rfl
  · exact coversItsCommand_fixed .cfgReadEncAcc (by decide) rfl
  · exact coversItsCommand_fixed .cfgReadDecState (by decide) rfl
  · exact coversItsCommand_fixed .cfgReadDecAcc (by decide) rfl
  · exact coversItsCommand_fixed .cfgReadId (by decide) rfl
  · exact coversItsCommand_operand covers_srst_iff fun _ => rfl

/-- Every command has its row: those with an operand by the row's operand, the other words one by one. -/
theorem exists_row_covers_encode (i : Instr) :
    ∃ r ∈ opcodeMap, r.covers (encode i) = true ∧ r.mnemonic = mnemonicOf i := by
  cases i
  case encWrite b => exact ⟨_, by decide, (covers_encWrite_iff _).2 ⟨b, rfl⟩, rfl⟩
  case cfgWriteSym62 val => exact ⟨_, by decide, (covers_cfgWriteSym62_iff _).2 ⟨val, rfl⟩, rfl⟩
  case cfgWriteSym63 val => exact ⟨_, by decide, (covers_cfgWriteSym63_iff _).2 ⟨val, rfl⟩, rfl⟩
  case cfgWritePad val => exact ⟨_, by decide, (covers_cfgWritePad_iff _).2 ⟨val, rfl⟩, rfl⟩
  case cfgWriteLineLen val => exact ⟨_, by decide, (covers_cfgWriteLineLen_iff _).2 ⟨val, rfl⟩, rfl⟩
  case srst m => exact ⟨_, by decide, (covers_srst_iff _).2 ⟨m, rfl⟩, rfl⟩
  all_goals decide

theorem opcodeMap_mnemonic_nodup : (opcodeMap.map OpcodeRow.mnemonic).Nodup := by decide

/-- A row that covers the word of a command is the row of that command. -/
theorem eq_of_covers_encode {q r : OpcodeRow} {i : Instr} (hq : q ∈ opcodeMap) (hr : r ∈ opcodeMap)
    (hcovers : q.covers (encode i) = true) (hm : r.mnemonic = mnemonicOf i) : q = r := by
  obtain ⟨j, hj, hqm⟩ := opcodeMap_coversItsCommand q hq _ hcovers
  have hji : j = i := Except.ok.inj ((decode_encode j).symm.trans (hj ▸ decode_encode i))
  exact List.inj_on_of_nodup_map opcodeMap_mnemonic_nodup hq hr (hqm.trans (hji ▸ hm.symm))

end Sys2Proof

namespace Sys2Proof.Machine

/-- Settles O9: the rows that cover a word are rows of the command it decodes to, and a mnemonic names one row. -/
theorem wordIsOneRowOrIllegal : Obligations.WordIsOneRowOrIllegal := by
  intro w
  cases hd : decode w with
  | ok i =>
    obtain rfl := encode_of_decode hd
    obtain ⟨r, hr, hcovers, hm⟩ := exists_row_covers_encode i
    exact ⟨r, hr, hcovers, hm, fun q hq hqcovers => eq_of_covers_encode hq hr hqcovers hm⟩
  | error e =>
    refine ⟨fun r hr => Bool.eq_false_iff.2 fun hcovers => ?_, raisesIllegal_of_decode_error hd⟩
    obtain ⟨i, rfl, -⟩ := opcodeMap_coversItsCommand r hr w hcovers
    simp [decode_encode] at hd

end Sys2Proof.Machine

/-!
PROOF. The form of every response a step transfers or holds out (spec 30_encoding.md R74, R75, R81).
-/

namespace Sys2Proof.Machine

/-- Every response transferred so far has the form of R74 and a code of R75. -/
def State.LegalResponses (s : State) : Prop := ∀ w ∈ s.rsp, legalResponse w = true

theorem sendResponse_legalResponses {w : Word} (hw : legalResponse w = true) {s : State} (hs : s.LegalResponses) :
    (sendResponse w s).LegalResponses := by
  obtain ⟨-, h⟩ | ⟨-, h⟩ := sendResponse_cases w s <;> rw [h]
  · intro v hv
    obtain hv | hv := List.mem_append.1 hv
    · exact hs v hv
    · rwa [List.mem_singleton.1 hv]
  · exact hs

theorem respond_legalResponses (rc : ResultCode) (data : Acc) {s : State} (hs : s.LegalResponses) :
    (respond rc data s).LegalResponses :=
  sendResponse_legalResponses (legalResponse_responseWord rc data) hs

theorem emitThenOk_legalResponses (items : List OutItem) {s : State} (hs : s.LegalResponses) :
    (emitThenOk items s).LegalResponses := by
  unfold emitThenOk
  split
  · exact respond_legalResponses _ _ hs
  · exact hs

theorem continueRead_legalResponses (vs : List SymVal) {s : State} (hs : s.LegalResponses) :
    (continueRead vs s).LegalResponses := by
  rw [continueRead_eq_endRead]
  obtain ⟨rc, data, d, h⟩ | ⟨ws, -, h⟩ := endRead_cases (fetchGroup s.cfg (4 - vs.length) vs s.dec.exhausted s.inp) s <;>
    rw [h]
  · exact respond_legalResponses _ _ hs
  · exact hs

theorem continuePeek_legalResponses {s : State} (hs : s.LegalResponses) : (continuePeek s).LegalResponses := by
  rcases continuePeek_cases s with h | h | h <;> rw [h]
  · exact hs
  · exact respond_legalResponses _ _ hs
  · exact respond_legalResponses _ _ hs

theorem execEncWrite_legalResponses {b : Byte} {s t : State} (hs : s.LegalResponses)
    (h : execEncWrite b s = .next t) : t.LegalResponses := by
  obtain rfl | rfl | ⟨a, rfl⟩ := execEncWrite_cases h
  · exact respond_legalResponses _ _ hs
  · exact respond_legalResponses _ _ hs
  · exact emitThenOk_legalResponses _ hs

theorem execDecRead_legalResponses {s t : State} (hs : s.LegalResponses) (h : execDecRead s = .next t) :
    t.LegalResponses := by
  obtain ⟨-, rfl⟩ | ⟨-, -, rfl⟩ | ⟨-, -, rfl⟩ := execDecRead_cases h
  · exact respond_legalResponses _ _ hs
  · exact respond_legalResponses _ _ hs
  · exact continueRead_legalResponses [] hs

theorem execDecHasMore_legalResponses {s t : State} (hs : s.LegalResponses) (h : execDecHasMore s = .next t) :
    t.LegalResponses := by
  obtain ⟨rc, data, rfl⟩ | ⟨-, rfl⟩ := execDecHasMore_cases h
  · exact respond_legalResponses _ _ hs
  · exact continuePeek_legalResponses hs

theorem exec_legalResponses {i : Instr} {s t : State} (hs : s.LegalResponses) (h : exec i s = .next t) :
    t.LegalResponses := by
  obtain ⟨rc, data, c, rfl⟩ | ⟨b, hwrite⟩ | rfl | rfl | hread | hmore | ⟨m, rfl⟩ := exec_cases h
  · exact respond_legalResponses _ _ hs
  · exact execEncWrite_legalResponses hs hwrite
  · exact emitThenOk_legalResponses _ hs
  · exact emitThenOk_legalResponses _ hs
  · exact execDecRead_legalResponses hs hread
  · exact execDecHasMore_legalResponses hs hmore
  · exact respond_legalResponses _ _ hs

/-- A response held out is legal by the invariant; every other is made by a command or by Illegal. -/
theorem step_legalResponses {s t : State} (hprogress : s.progressInv = true) (hs : s.LegalResponses)
    (h : step s = .next t) : t.LegalResponses := by
  obtain ⟨-, rfl⟩ | ⟨-, -, -, rfl⟩ | ⟨w, rest, i, -, -, hexec⟩ | ⟨w, rest, e, -, -, rfl⟩ | ⟨syms, -, -, rfl⟩ |
    ⟨-, -, rfl⟩ | ⟨items, -, -, rfl⟩ | ⟨w, -, hp, rfl⟩ := step_cases h
  · exact hs
  · exact hs
  · exact exec_legalResponses (s := { s with cmds := rest }) hs hexec
  · exact respond_legalResponses _ _ hs
  · exact continueRead_legalResponses syms hs
  · exact continuePeek_legalResponses hs
  · exact emitThenOk_legalResponses items hs
  · exact sendResponse_legalResponses ((State.progressInv_of_respond hp).1 hprogress) hs

/-- Settles O12: a response held out after the step is one by the machine's invariant, which the step keeps. -/
theorem responsesAreLegalWords : Obligations.ResponsesAreLegalWords := by
  intro s t hinv hs h
  obtain ⟨-, -, hprogress⟩ := s.inv_iff.1 hinv
  obtain ⟨-, -, hheld⟩ := t.inv_iff.1 (stepKeepsMachineInvariant s t hinv h)
  exact ⟨step_legalResponses hprogress hs h, fun w hp => (State.progressInv_of_respond hp).1 hheld⟩

end Sys2Proof.Machine

/-!
PROOF. Words and assembler lines written out, and the pseudo-commands (spec 30_encoding.md R76, R85, R86, R88).
-/

namespace Sys2Proof.Machine

/-- Settles O5: each word is the word of its command. -/
theorem writtenOutWordsDecode : Obligations.WrittenOutWordsDecode := by
  unfold Obligations.WrittenOutWordsDecode
  simp only [decode_eq_ok_iff]
  decide

theorem assembleLine_of_wellFormed {l : AsmLine} (h : l.wellFormed = true) : assembleLine l = some (lineWords l) :=
  if_pos h

theorem assembleLine_of_not_wellFormed {l : AsmLine} (h : l.wellFormed = false) : assembleLine l = none :=
  if_neg (Bool.eq_false_iff.1 h)

/-- ENC_WRITEN of bytes: each fits its field, and is the byte it was (R86). -/
theorem assembleLine_encWriteN (bs : List Byte) :
    assembleLine (.encWriteN (bs.map BitVec.toNat)) = some (bs.map fun b => encode (.encWrite b)) := by
  have hfits : (AsmLine.encWriteN (bs.map BitVec.toNat)).wellFormed = true := by
    simpa [AsmLine.wellFormed] using fun b _ => b.isLt
  rw [assembleLine_of_wellFormed hfits]
  simp [lineWords]

/-- CFG_INIT of values of the registers' widths: four CFG_WRITEs (R88). -/
theorem assembleLine_cfgInit (a b c : Byte) (l : LineLen) :
    assembleLine (.cfgInit a.toNat b.toNat c.toNat l.toNat) =
      some [encode (.cfgWriteSym62 a), encode (.cfgWriteSym63 b), encode (.cfgWritePad c),
        encode (.cfgWriteLineLen l)] := by
  have hfits : (AsmLine.cfgInit a.toNat b.toNat c.toNat l.toNat).wellFormed = true := by
    simpa [AsmLine.wellFormed, and_assoc] using ⟨a.isLt, b.isLt, c.isLt, l.isLt⟩
  rw [assembleLine_of_wellFormed hfits]
  simp [lineWords, cfgWriteWords]

/-- Settles O59: the pseudo-commands by their expansions, the encoding examples by running the assembler on them. -/
theorem assemblerExpandsPseudoCommands : Obligations.AssemblerExpandsPseudoCommands :=
  ⟨assembleLine_encWriteN, assembleLine_cfgInit, fun _ => assembleLine_of_not_wellFormed,
    by decide, by decide, by decide, by decide, by decide, by decide⟩

end Sys2Proof.Machine

/-!
PROOF. The alphabet: the two symbol mappings range by range, and when one inverts the other (spec 40_alphabet.md R100,
R103, R106).
-/

namespace Sys2Proof.Machine

/-! ## encodeSymbol, range by range (R100) -/

theorem encodeSymbol_toNat_upper (c : Cfg) {v : SymVal} (h : v.toNat ≤ 25) :
    (encodeSymbol c v).toNat = 0x41 + v.toNat := by
  have hv : v ≤ 25#6 := h
  rw [encodeSymbol, if_pos hv]
  bv_omega

theorem encodeSymbol_toNat_lower (c : Cfg) {v : SymVal} (h₁ : 26 ≤ v.toNat) (h₂ : v.toNat ≤ 51) :
    (encodeSymbol c v).toNat = 0x61 + (v.toNat - 26) := by
  have hv₁ : ¬ v ≤ 25#6 := by bv_omega
  have hv₂ : v ≤ 51#6 := h₂
  rw [encodeSymbol, if_neg hv₁, if_pos hv₂]
  bv_omega

theorem encodeSymbol_toNat_digit (c : Cfg) {v : SymVal} (h₁ : 52 ≤ v.toNat) (h₂ : v.toNat ≤ 61) :
    (encodeSymbol c v).toNat = 0x30 + (v.toNat - 52) := by
  have hv₁ : ¬ v ≤ 25#6 := by bv_omega
  have hv₂ : ¬ v ≤ 51#6 := by bv_omega
  have hv₃ : v ≤ 61#6 := h₂
  rw [encodeSymbol, if_neg hv₁, if_neg hv₂, if_pos hv₃]
  bv_omega

@[simp] theorem encodeSymbol_62 (c : Cfg) : encodeSymbol c 62#6 = c.sym62 := rfl

@[simp] theorem encodeSymbol_63 (c : Cfg) : encodeSymbol c 63#6 = c.sym63 := rfl

/-- The values of the fixed symbols, and the two others. -/
theorem symVal_cases (v : SymVal) : v.toNat < 62 ∨ v = 62#6 ∨ v = 63#6 := by bv_omega

/-- Settles O18: one lemma a range. -/
theorem encodeSymbolFollowsRanges : Obligations.EncodeSymbolFollowsRanges := by
  intro c v
  refine ⟨encodeSymbol_toNat_upper c, encodeSymbol_toNat_lower c, encodeSymbol_toNat_digit c, fun h => ?_, fun h => ?_⟩
  · obtain rfl : v = 62#6 := BitVec.eq_of_toNat_eq h
    exact encodeSymbol_62 c
  · obtain rfl : v = 63#6 := BitVec.eq_of_toNat_eq h
    exact encodeSymbol_63 c

/-! ## decodeSymbol, range by range (R103) -/

theorem decodeSymbol_upper (c : Cfg) {b : Byte} (h₁ : 0x41 ≤ b.toNat) (h₂ : b.toNat ≤ 0x5A) :
    decodeSymbol c b = some (BitVec.ofNat 6 (b.toNat - 0x41)) := by
  have hupper : 0x41#8 ≤ b ∧ b ≤ 0x5A#8 := ⟨h₁, h₂⟩
  rw [decodeSymbol, if_pos hupper]
  congr 1
  bv_omega

theorem decodeSymbol_lower (c : Cfg) {b : Byte} (h₁ : 0x61 ≤ b.toNat) (h₂ : b.toNat ≤ 0x7A) :
    decodeSymbol c b = some (BitVec.ofNat 6 (b.toNat - 0x61 + 26)) := by
  have hupper : ¬ (0x41#8 ≤ b ∧ b ≤ 0x5A#8) := by bv_omega
  have hlower : 0x61#8 ≤ b ∧ b ≤ 0x7A#8 := ⟨h₁, h₂⟩
  rw [decodeSymbol, if_neg hupper, if_pos hlower]
  congr 1
  bv_omega

theorem decodeSymbol_digit (c : Cfg) {b : Byte} (h₁ : 0x30 ≤ b.toNat) (h₂ : b.toNat ≤ 0x39) :
    decodeSymbol c b = some (BitVec.ofNat 6 (b.toNat - 0x30 + 52)) := by
  have hupper : ¬ (0x41#8 ≤ b ∧ b ≤ 0x5A#8) := by bv_omega
  have hlower : ¬ (0x61#8 ≤ b ∧ b ≤ 0x7A#8) := by bv_omega
  have hdigit : 0x30#8 ≤ b ∧ b ≤ 0x39#8 := ⟨h₁, h₂⟩
  rw [decodeSymbol, if_neg hupper, if_neg hlower, if_pos hdigit]
  congr 1
  bv_omega

/-- The fixed symbols fill the three ranges: a byte of a range is the symbol of its place in it. -/
theorem exists_encodeSymbol_of_range (c : Cfg) {b : Byte}
    (h : (0x41#8 ≤ b ∧ b ≤ 0x5A#8) ∨ (0x61#8 ≤ b ∧ b ≤ 0x7A#8) ∨ (0x30#8 ≤ b ∧ b ≤ 0x39#8)) :
    ∃ v : SymVal, v.toNat < 62 ∧ encodeSymbol c v = b := by
  have hval : ∀ n < 64, ∃ v : SymVal, v.toNat = n := fun n hn => ⟨BitVec.ofNatLT n hn, rfl⟩
  simp only [BitVec.le_def, BitVec.toNat_ofNat] at h
  obtain ⟨h₁, h₂⟩ | ⟨h₁, h₂⟩ | ⟨h₁, h₂⟩ := h
  · obtain ⟨v, hv⟩ := hval (b.toNat - 0x41) (by omega)
    have hb := encodeSymbol_toNat_upper c (v := v) (by omega)
    exact ⟨v, by omega, BitVec.eq_of_toNat_eq (by omega)⟩
  · obtain ⟨v, hv⟩ := hval (b.toNat - 0x61 + 26) (by omega)
    have hb := encodeSymbol_toNat_lower c (v := v) (by omega) (by omega)
    exact ⟨v, by omega, BitVec.eq_of_toNat_eq (by omega)⟩
  · obtain ⟨v, hv⟩ := hval (b.toNat - 0x30 + 52) (by omega)
    have hb := encodeSymbol_toNat_digit c (v := v) (by omega) (by omega)
    exact ⟨v, by omega, BitVec.eq_of_toNat_eq (by omega)⟩

/-- Outside the fixed symbols only the configured ones are looked up, symbol 62 before symbol 63 (R104). -/
theorem decodeSymbol_of_not_fixed {c : Cfg} {b : Byte} (h : ∀ v : SymVal, v.toNat < 62 → encodeSymbol c v ≠ b) :
    decodeSymbol c b = if b = c.sym62 then some 62#6 else if b = c.sym63 then some 63#6 else none := by
  have hranges := mt (exists_encodeSymbol_of_range c) fun ⟨v, hv, hb⟩ => h v hv hb
  obtain ⟨hupper, hlower, hdigit⟩ := by simpa only [not_or] using hranges
  rw [decodeSymbol, if_neg hupper, if_neg hlower, if_neg hdigit]

/-- Settles O19: one lemma a range, and the lookup of the configured symbols outside the ranges. -/
theorem decodeSymbolFollowsRanges : Obligations.DecodeSymbolFollowsRanges := by
  intro c b
  refine ⟨decodeSymbol_upper c, decodeSymbol_lower c, decodeSymbol_digit c, fun hfixed => ?_⟩
  rw [decodeSymbol_of_not_fixed hfixed]
  exact ⟨fun h₆₂ => if_pos h₆₂, fun h₆₂ h₆₃ => by rw [if_neg h₆₂, if_pos h₆₃],
    fun h₆₂ h₆₃ => by rw [if_neg h₆₂, if_neg h₆₃]⟩

/-! ## The inverse law (R106) -/

/-- The fixed symbols are read back whatever the configured symbols are: a range wins over them. -/
theorem decodeSymbol_encodeSymbol_of_fixed (c : Cfg) {v : SymVal} (hv : v.toNat < 62) :
    decodeSymbol c (encodeSymbol c v) = some v := by
  rcases (by omega : v.toNat ≤ 25 ∨ (26 ≤ v.toNat ∧ v.toNat ≤ 51) ∨ (52 ≤ v.toNat ∧ v.toNat ≤ 61)) with
    h | ⟨h₁, h₂⟩ | ⟨h₁, h₂⟩
  · have hb := encodeSymbol_toNat_upper c h
    rw [decodeSymbol_upper c (by omega) (by omega), hb]
    simp
  · have hb := encodeSymbol_toNat_lower c h₁ h₂
    rw [decodeSymbol_lower c (by omega) (by omega), hb]
    simp [h₁]
  · have hb := encodeSymbol_toNat_digit c h₁ h₂
    rw [decodeSymbol_digit c (by omega) (by omega), hb]
    simp [h₁]

theorem decodeSymbol_encodeSymbol_of_distinct {c : Cfg} (hd : c.distinctSymbols) (v : SymVal) :
    decodeSymbol c (encodeSymbol c v) = some v := by
  obtain ⟨hne, hfixed⟩ := hd
  rcases symVal_cases v with hv | rfl | rfl
  · exact decodeSymbol_encodeSymbol_of_fixed c hv
  · rw [encodeSymbol_62, decodeSymbol_of_not_fixed fun v hv => (hfixed v hv).1, if_pos rfl]
  · rw [encodeSymbol_63, decodeSymbol_of_not_fixed fun v hv => (hfixed v hv).2, if_neg hne.symm, if_pos rfl]

theorem distinctSymbols_of_injective {c : Cfg} (hinj : Function.Injective (encodeSymbol c)) : c.distinctSymbols := by
  refine ⟨hinj.ne (a₁ := 62#6) (a₂ := 63#6) (by decide), fun v hv => ?_⟩
  exact ⟨hinj.ne (a₂ := 62#6) (by bv_omega), hinj.ne (a₂ := 63#6) (by bv_omega)⟩

theorem decodeSymbol_encodeSymbol_iff (c : Cfg) :
    (∀ v : SymVal, decodeSymbol c (encodeSymbol c v) = some v) ↔ c.distinctSymbols := by
  -- Values that are read back cannot share a byte.
  refine ⟨fun hinv => distinctSymbols_of_injective fun v w hvw => ?_, decodeSymbol_encodeSymbol_of_distinct⟩
  exact Option.some.inj (by rw [← hinv v, hvw, hinv w])

/-- What a byte needs to reach the lookup. A padding register of 0 excludes no byte: 0 is a skip byte. -/
theorem reachesLookup_iff (c : Cfg) (b : Byte) :
    (isSkip b = false ∧ isPad c b = false) ↔ (0x20#8 < b ∧ b ≠ 0x3D#8 ∧ b ≠ c.pad) := by
  simp only [isSkip, isPad, decide_eq_false_iff_not, not_or, not_and, BitVec.not_le]
  refine and_congr_right fun hskip => and_congr_right fun _ => ⟨fun h hb => ?_, fun h _ => h⟩
  have hpad : c.pad ≠ 0 := by bv_omega
  exact h hpad hb

/-- With distinct symbols the lookup never fails on one, so only the tests before it count. -/
theorem classify_encodeSymbol_iff {c : Cfg} (hd : c.distinctSymbols) (v : SymVal) :
    classify c (encodeSymbol c v) = .sym v ↔
      0x20#8 < encodeSymbol c v ∧ encodeSymbol c v ≠ 0x3D#8 ∧ encodeSymbol c v ≠ c.pad := by
  rw [classify_sym_iff, ← reachesLookup_iff]
  simp [decodeSymbol_encodeSymbol_of_distinct hd v]

/-- Settles O20: the inverse law, and the tests before the lookup at symbols 62 and 63. -/
theorem inverseLawNeedsDistinctSymbols : Obligations.InverseLawNeedsDistinctSymbols := by
  refine fun c => ⟨decodeSymbol_encodeSymbol_iff c, fun hd => ?_⟩
  have h₆₂ := classify_encodeSymbol_iff hd 62#6
  have h₆₃ := classify_encodeSymbol_iff hd 63#6
  rw [encodeSymbol_62] at h₆₂
  rw [encodeSymbol_63] at h₆₃
  rw [h₆₂, h₆₃]
  simp only [and_assoc]

end Sys2Proof.Machine

/-!
PROOF. The encoder commands one at a time: the fields of a group, LineWrap() by the line count, and the items and the
registers each command comes to (spec 20_memory.md R56; 41_encoder.md R120 to R124).
-/

namespace Sys2Proof.Machine

/-! ## The bytes and the symbols of a group (R56) -/

theorem toNat_append_eq_add {m n : Nat} (x : BitVec m) (y : BitVec n) :
    (x ++ y).toNat = x.toNat * 2 ^ n + y.toNat := by
  rw [BitVec.toNat_append, ← Nat.shiftLeft_add_eq_or_of_lt y.isLt, Nat.shiftLeft_eq]

theorem extractLsb'_toNat_eq_mod {n : Nat} (start len : Nat) (x : BitVec n) :
    (x.extractLsb' start len).toNat = x.toNat / 2 ^ start % 2 ^ len := by
  rw [BitVec.extractLsb'_toNat, Nat.shiftRight_eq_div_pow]

theorem ofBytes_toNat (b1 b2 b3 : Byte) :
    (ofBytes b1 b2 b3).toNat = b1.toNat * 65536 + b2.toNat * 256 + b3.toNat := by
  rw [ofBytes, toNat_append_eq_add, toNat_append_eq_add]
  omega

@[simp] theorem byte1_ofBytes (b1 b2 b3 : Byte) : byte1 (ofBytes b1 b2 b3) = b1 := by
  apply BitVec.eq_of_toNat_eq
  rw [byte1, extractLsb'_toNat_eq_mod, ofBytes_toNat]
  omega

@[simp] theorem byte2_ofBytes (b1 b2 b3 : Byte) : byte2 (ofBytes b1 b2 b3) = b2 := by
  apply BitVec.eq_of_toNat_eq
  rw [byte2, extractLsb'_toNat_eq_mod, ofBytes_toNat]
  omega

theorem sym1_ofBytes (b1 b2 b3 : Byte) : sym1 (ofBytes b1 b2 b3) = b1.extractLsb' 2 6 := by
  apply BitVec.eq_of_toNat_eq
  simp only [sym1, extractLsb'_toNat_eq_mod, ofBytes_toNat]
  omega

theorem sym2_ofBytes (b1 b2 b3 : Byte) :
    sym2 (ofBytes b1 b2 b3) = b1.extractLsb' 0 2 ++ b2.extractLsb' 4 4 := by
  apply BitVec.eq_of_toNat_eq
  simp only [sym2, extractLsb'_toNat_eq_mod, ofBytes_toNat, toNat_append_eq_add]
  omega

theorem sym3_ofBytes (b1 b2 b3 : Byte) :
    sym3 (ofBytes b1 b2 b3) = b2.extractLsb' 0 4 ++ b3.extractLsb' 6 2 := by
  apply BitVec.eq_of_toNat_eq
  simp only [sym3, extractLsb'_toNat_eq_mod, ofBytes_toNat, toNat_append_eq_add]
  omega

theorem sym4_ofBytes (b1 b2 b3 : Byte) : sym4 (ofBytes b1 b2 b3) = b3.extractLsb' 0 6 := by
  apply BitVec.eq_of_toNat_eq
  simp only [sym4, extractLsb'_toNat_eq_mod, ofBytes_toNat]
  omega

theorem ofBytes_byte1_byte2 (a : Acc) (b : Byte) : ofBytes (byte1 a) (byte2 a) b = a.extractLsb' 8 16 ++ b :=
  congrArg (· ++ b) (BitVec.extractLsb'_append_extractLsb'_eq_extractLsb' (x := a) rfl)

theorem ofBytes_zero_zero (b : Byte) : ofBytes b 0 0 = b ++ 0#16 := by
  apply BitVec.eq_of_toNat_eq
  rw [ofBytes_toNat, toNat_append_eq_add]
  simp

/-! ## LineWrap() by the line count (R121) -/

theorem lineWrap_off {c : Cfg} (hoff : ceil4 c.lineLen = 0) (n : LineCount) : lineWrap c n = ([], n) := if_pos hoff

theorem lineWrap_below {c : Cfg} {n : LineCount} (hon : ceil4 c.lineLen ≠ 0) (h : n + 4 < ceil4 c.lineLen) :
    lineWrap c n = ([], n + 4) :=
  (if_neg hon).trans (if_neg (BitVec.not_le.2 h))

theorem lineWrap_full {c : Cfg} {n : LineCount} (hon : ceil4 c.lineLen ≠ 0) (h : ceil4 c.lineLen ≤ n + 4) :
    lineWrap c n = (crLf, 0) :=
  (if_neg hon).trans (if_pos h)

/-! ## Items and registers of one command -/

/-- The items ENC_WRITE appends and the encoder registers it leaves (R122). -/
def encWriteEffect (c : Cfg) (e : Enc) (b : Byte) : List OutItem × Enc :=
  match e.step with
  | .zero => ([], { e with acc := ofBytes b 0 0, step := .one })
  | .one => ([], { e with acc := ofBytes (byte1 e.acc) b 0, step := .two })
  | .two =>
    let a := ofBytes (byte1 e.acc) (byte2 e.acc) b
    (groupSymbols c a ++ (lineWrap c e.linecnt).1, { acc := 0, step := .zero, linecnt := (lineWrap c e.linecnt).2 })

theorem exec_encWrite (b : Byte) (s : State) : exec (.encWrite b) s =
    .next (emitThenOk (encWriteEffect s.cfg s.enc b).1 (s.withEnc (encWriteEffect s.cfg s.enc b).2)) := by
  cases hstep : s.enc.step <;> simp only [exec, execEncWrite, encWriteEffect, hstep, emitThenOk_nil]
  rfl

theorem exec_encFlush (s : State) : exec .encFlush s = .next (emitThenOk [.flush] s) := rfl

theorem exec_encFinalize (s : State) : exec .encFinalize s =
    .next (emitThenOk (tailItems s.cfg s.enc ++ [.endOfStream]) (s.withEnc Enc.reset)) := rfl

theorem encWriteEffect_zero (c : Cfg) {e : Enc} (h : e.step = .zero) (b : Byte) :
    encWriteEffect c e b = ([], { acc := ofBytes b 0 0, step := .one, linecnt := e.linecnt }) := by
  rw [encWriteEffect, h]

theorem encWriteEffect_one (c : Cfg) {e : Enc} (h : e.step = .one) (b : Byte) :
    encWriteEffect c e b = ([], { acc := ofBytes (byte1 e.acc) b 0, step := .two, linecnt := e.linecnt }) := by
  rw [encWriteEffect, h]

theorem encWriteEffect_two (c : Cfg) {e : Enc} (h : e.step = .two) (b : Byte) :
    encWriteEffect c e b =
      (groupSymbols c (ofBytes (byte1 e.acc) (byte2 e.acc) b) ++ (lineWrap c e.linecnt).1,
        { acc := 0, step := .zero, linecnt := (lineWrap c e.linecnt).2 }) := by
  rw [encWriteEffect, h]

/-! ## The statements about one command -/

theorem encode_encWrite (b : Byte) : encode (.encWrite b) = 0x100000#24 ++ b := by
  apply BitVec.eq_of_toNat_eq
  have hb : (b.setWidth 24).toNat = b.toNat := by
    rw [BitVec.toNat_setWidth]
    omega
  rw [encode, commandWord_toNat, hb]
  exact (toNat_append_eq_add 0x100000#24 b).symm

/-- Settles O23: the effect of ENC_WRITE at steps 0 and 1. -/
theorem encWriteFillsGroup : Obligations.EncWriteFillsGroup := by
  refine ⟨encode_encWrite, fun _ _ => raisesIllegal_of_malformed, fun b s hrsp => ?_⟩
  refine ⟨fun hstep => ?_, fun hstep => ?_⟩
  · rw [exec_encWrite, encWriteEffect_zero _ hstep, emitThenOk_nil, ofBytes_zero_zero]
    exact congrArg _ (respond_of_accepts _ _ hrsp)
  · rw [exec_encWrite, encWriteEffect_one _ hstep, emitThenOk_nil]
    exact congrArg _ (respond_of_accepts _ _ hrsp)

/-- Settles O24: the effect of ENC_WRITE at step 2, by what LineWrap() does. -/
theorem encWriteCompletesGroup : Obligations.EncWriteCompletesGroup := by
  rintro b s a symbols hrsp hstep ha rfl
  rw [exec_encWrite, encWriteEffect_two _ hstep, ofBytes_byte1_byte2, ← ha]
  refine ⟨fun hoff hout => ?_, fun hon hbelow hout => ?_, fun hon hfull hout => ?_⟩
  · rw [lineWrap_off hoff]
    exact congrArg _ (emitThenOk_of_accepts hout hrsp)
  · rw [lineWrap_below hon hbelow]
    exact congrArg _ (emitThenOk_of_accepts hout hrsp)
  · rw [lineWrap_full hon hfull]
    exact congrArg _ (emitThenOk_of_accepts hout hrsp)

/-- Settles O25: the only item is the marker, and no register is written. -/
theorem encFlushEmitsMarkerOnly : Obligations.EncFlushEmitsMarkerOnly := by
  refine ⟨by decide, fun _ _ => raisesIllegal_of_malformed, fun s hout hrsp => ?_⟩
  exact congrArg _ (emitThenOk_of_accepts hout hrsp)

/-- Settles O26: the statement's tail is `tailItems` at each step, its paddings being the two lengths of `padding`. -/
theorem encFinalizeEmitsTailAndEnd : Obligations.EncFinalizeEmitsTailAndEnd := by
  refine ⟨by decide, fun _ _ => raisesIllegal_of_malformed, fun s tail hrsp hzero hone htwo hout => ?_⟩
  have htail : tail = tailItems s.cfg s.enc := by
    unfold tailItems
    split
    · next hstep => exact hzero hstep
    · next hstep => exact hone hstep
    · next hstep => exact htwo hstep
  subst htail
  rw [exec_encFinalize]
  exact congrArg _ (emitThenOk_of_accepts (by simpa using hout) hrsp)

end Sys2Proof.Machine

/-!
PROOF. Commands the host issues one after the other to a calm core: their effects on the encoder and the output add up,
and depend on the bytes written alone (spec 30_encoding.md R86; 41_encoder.md R122 to R124, R128).
-/

namespace Sys2Proof.Machine

/-! ## A command the host issues to a calm core (R86) -/

/-- A command that answers at once gives the host its response and the state it leaves. -/
theorem hostCall_of_exec {i : Instr} {s : State} {r : Word} (hs : s.calm) (u : State)
    (h : exec i s = .next (u.answered r)) (hrsp : u.rsp = s.rsp) :
    hostCall (encode i) s = .answered r (u.answered r) := by
  obtain ⟨hp, hrst, hcmds, -, -⟩ := hs
  have hacc : (issue (encode i) s).accepting (encode i) [] := ⟨hrst, hp, by simp [hcmds]⟩
  have hsame : { issue (encode i) s with cmds := [] } = s := by simp [issue, ← hcmds]
  rw [hostCall, step_of_accepting hacc (decode_encode i), hsame, h]
  simp [hrsp]

/-- The commands of an encode stream: those of the encoder, and CFG_READ between them (R128). -/
def StreamCommand (i : Instr) : Prop :=
  (∃ b, i = .encWrite b) ∨ i = .encFlush ∨ i = .encFinalize ∨ ∃ r, i = cfgReadOf r

/-- The items a command of a stream appends and the encoder registers it leaves (R122 to R124). The last arm is for
CFG_READ (R61). -/
def encEffect (c : Cfg) (e : Enc) : Instr → List OutItem × Enc
  | .encWrite b => encWriteEffect c e b
  | .encFlush => ([.flush], e)
  | .encFinalize => (tailItems c e ++ [.endOfStream], Enc.reset)
  | _ => ([], e)

/-- The effects of commands one after the other. -/
def encEffects (c : Cfg) (e : Enc) : List Instr → List OutItem × Enc
  | [] => ([], e)
  | i :: is =>
    ((encEffect c e i).1 ++ (encEffects c (encEffect c e i).2 is).1, (encEffects c (encEffect c e i).2 is).2)

@[simp] theorem encEffect_cfgReadOf (c : Cfg) (e : Enc) (r : Reg) : encEffect c e (cfgReadOf r) = ([], e) := by
  cases r <;> rfl

theorem exec_cfgReadOf (r : Reg) (s : State) : exec (cfgReadOf r) s = .next (respond .ok (readReg s r) s) := by
  cases r <;> rfl

/-- `t` is `s` with the effect `f` of encoder commands, and ready for the next command. -/
structure State.Streamed (s : State) (f : List OutItem × Enc) (t : State) : Prop where
  out : t.out = s.out ++ f.1
  enc : t.enc = f.2
  cfg : t.cfg = s.cfg
  dec : t.dec = s.dec
  inp : t.inp = s.inp
  calm : t.calm

theorem exec_streamCommand {i : Instr} (hi : StreamCommand i) {s : State} (hs : s.calm) :
    ∃ r, exec i s =
      .next (((s.withEnc (encEffect s.cfg s.enc i).2).emitted (encEffect s.cfg s.enc i).1).answered r) := by
  obtain ⟨-, -, -, hout, hrsp⟩ := hs
  have hanswer : ∀ e items, emitThenOk items (s.withEnc e) = ((s.withEnc e).emitted items).answered 0 :=
    fun e items => emitThenOk_of_accepts (by simp [hout]) (by simp [hrsp])
  obtain ⟨b, rfl⟩ | rfl | rfl | ⟨r, rfl⟩ := hi
  · exact ⟨0, (exec_encWrite b s).trans (congrArg _ (hanswer _ _))⟩
  · exact ⟨0, (exec_encFlush s).trans (congrArg _ (hanswer _ _))⟩
  · exact ⟨0, (exec_encFinalize s).trans (congrArg _ (hanswer _ _))⟩
  · refine ⟨responseWord .ok (readReg s r), ?_⟩
    rw [exec_cfgReadOf, encEffect_cfgReadOf, State.emitted_nil]
    exact congrArg _ (respond_of_accepts _ _ (by rw [hrsp]; rfl))

theorem hostCall_streamCommand {i : Instr} (hi : StreamCommand i) {s : State} (hs : s.calm) :
    ∃ r t, hostCall (encode i) s = .answered r t ∧ s.Streamed (encEffect s.cfg s.enc i) t := by
  obtain ⟨r, hexec⟩ := exec_streamCommand hi hs
  refine ⟨r, _, hostCall_of_exec hs _ hexec rfl, rfl, rfl, rfl, rfl, rfl, ?_⟩
  obtain ⟨-, hrst, hcmds, hout, hrsp⟩ := hs
  exact ⟨rfl, hrst, hcmds, by simp [hout], by simp [hrsp]⟩

/-- The host runs commands of a stream to their end, and their effects add up. -/
theorem hostRun_stream {is : List Instr} (his : ∀ i ∈ is, StreamCommand i) {s : State} (hs : s.calm) :
    ∃ t, hostRun is s = some t ∧ s.Streamed (encEffects s.cfg s.enc is) t := by
  induction is generalizing s with
  | nil => exact ⟨s, rfl, by simp [encEffects], rfl, rfl, rfl, rfl, hs⟩
  | cons i is ih =>
    obtain ⟨hi, his⟩ := List.forall_mem_cons.1 his
    obtain ⟨r, u, hcall, hu⟩ := hostCall_streamCommand hi hs
    obtain ⟨t, hrun, ht⟩ := ih his hu.calm
    rw [hu.cfg, hu.enc] at ht
    refine ⟨t, by rw [hostRun, hcall]; exact hrun, ?_, ht.enc, ht.cfg.trans hu.cfg, ht.dec.trans hu.dec,
      ht.inp.trans hu.inp, ht.calm⟩
    rw [ht.out, hu.out, List.append_assoc]
    rfl

/-! ## Chunking (R128) -/

/-- The byte a command writes. -/
def writtenByte : Instr → Option Byte
  | .encWrite b => some b
  | _ => none

@[simp] theorem writtenByte_encWrite (b : Byte) : writtenByte (.encWrite b) = some b := rfl

theorem writtenByte_encFlush : writtenByte .encFlush = none := rfl

@[simp] theorem writtenByte_cfgReadOf (r : Reg) : writtenByte (cfgReadOf r) = none := by
  cases r <;> rfl

/-- Without ENC_FINALIZE the effects are those of the writes alone, but for FLUSH. -/
theorem encEffects_eq_of_writes (c : Cfg) {is : List Instr}
    (his : ∀ i ∈ is, (∃ b, i = .encWrite b) ∨ i = .encFlush ∨ ∃ r, i = cfgReadOf r) (e : Enc) :
    (encEffects c e is).2 = (encEffects c e ((is.filterMap writtenByte).map .encWrite)).2 ∧
    (encEffects c e is).1.filter OutItem.isByte =
      (encEffects c e ((is.filterMap writtenByte).map .encWrite)).1.filter OutItem.isByte := by
  induction is generalizing e with
  | nil => exact ⟨rfl, rfl⟩
  | cons i is ih =>
    obtain ⟨hi, hrest⟩ := List.forall_mem_cons.1 his
    obtain ⟨b, rfl⟩ | rfl | ⟨r, rfl⟩ := hi
    · simpa [encEffects] using ih hrest _
    · rw [List.filterMap_cons_none writtenByte_encFlush]
      simpa [encEffects, encEffect, OutItem.isByte] using ih hrest e
    · simpa [encEffects] using ih hrest e

theorem streamCommand_encWrite {bs : List Byte} : ∀ i ∈ bs.map Instr.encWrite, StreamCommand i :=
  List.forall_mem_map.2 fun b _ => .inl ⟨b, rfl⟩

/-- Settles O56: both runs have the effects of their commands, and these differ in FLUSH alone. -/
theorem chunkingIndependence : Obligations.ChunkingIndependence := by
  rintro is bs s hs his hbs
  obtain ⟨t, hrun, ht⟩ := hostRun_stream (is := is)
    (fun i hi => (his i hi).imp_right (Or.imp_right .inr)) hs
  obtain ⟨u, hwrites, hu⟩ := hostRun_stream (streamCommand_encWrite (bs := bs)) hs
  obtain ⟨henc, hout⟩ := encEffects_eq_of_writes s.cfg his s.enc
  have hbytes : is.filterMap writtenByte = bs := hbs
  rw [hbytes] at henc hout
  refine ⟨t, u, hrun, hwrites, by rw [ht.enc, hu.enc, henc], ?_⟩
  rw [ht.out, hu.out, List.filter_append, List.filter_append, hout]

end Sys2Proof.Machine

/-!
PROOF. The output of an encode stream: its wire format, with the line breaks by the line count, and its padding and
length (spec 41_encoder.md R125 to R127).
-/

namespace Sys2Proof.Machine

/-! ## The line count of a stream (R121, R127) -/

/-- `enc.linecnt` after `k` complete groups of a stream: the symbols since the last multiple of T. -/
def lineCountAfter (c : Cfg) (k : Nat) : LineCount :=
  if c.threshold = 0 then 0 else BitVec.ofNat 17 (4 * k % c.threshold)

/-- Symbols come in fours and T is a multiple of 4, so the count meets T exactly (R26). -/
theorem four_mul_succ_mod {T : Nat} (hT : 4 ∣ T) (hpos : 0 < T) (k : Nat) :
    4 * k % T + 4 ≤ T ∧ 4 * (k + 1) % T = if 4 * k % T + 4 = T then 0 else 4 * k % T + 4 := by
  have hlt : 4 * k % T < T := Nat.mod_lt _ hpos
  have hdvd : 4 ∣ 4 * k % T := (Nat.dvd_mod_iff hT).2 (Nat.dvd_mul_right 4 k)
  have hle : 4 * k % T + 4 ≤ T := by omega
  refine ⟨hle, ?_⟩
  rw [Nat.mul_succ, ← Nat.mod_add_mod]
  split
  · next hfull => rw [hfull, Nat.mod_self]
  · next hbelow => exact Nat.mod_eq_of_lt (by omega)

theorem Cfg.threshold_eq_zero_iff (c : Cfg) : c.threshold = 0 ↔ ceil4 c.lineLen = 0 := by
  rw [BitVec.toNat_eq, ceil4_toNat]
  rfl

theorem Cfg.four_dvd_threshold (c : Cfg) : 4 ∣ c.threshold := Nat.dvd_mul_left 4 _

theorem Cfg.threshold_le (c : Cfg) : c.threshold ≤ 65536 := by
  have hlen := c.lineLen.isLt
  unfold Cfg.threshold
  omega

/-- LineWrap() after a stream's next group: a break where R127 has one, and the count of that many groups. -/
theorem lineWrap_lineCountAfter (c : Cfg) (k : Nat) :
    lineWrap c (lineCountAfter c k) = (breakAfter c (k + 1), lineCountAfter c (k + 1)) := by
  by_cases hoff : c.threshold = 0
  · rw [lineWrap_off (c.threshold_eq_zero_iff.1 hoff)]
    simp [breakAfter, lineCountAfter, hoff]
  · have hon : ceil4 c.lineLen ≠ 0 := mt c.threshold_eq_zero_iff.2 hoff
    obtain ⟨hle, hsucc⟩ := four_mul_succ_mod c.four_dvd_threshold (Nat.pos_of_ne_zero hoff) k
    have hadd : (lineCountAfter c k + 4).toNat = 4 * k % c.threshold + 4 := by
      have hmax := c.threshold_le
      rw [lineCountAfter, if_neg hoff, BitVec.toNat_add, BitVec.toNat_ofNat]
      simp
      omega
    have hceil : (ceil4 c.lineLen).toNat = c.threshold := ceil4_toNat c.lineLen
    by_cases hfull : 4 * k % c.threshold + 4 = c.threshold
    · rw [if_pos hfull] at hsucc
      rw [lineWrap_full hon (by rw [BitVec.le_def]; omega)]
      simp [breakAfter, lineCountAfter, hoff, hsucc, crLf]
    · rw [if_neg hfull] at hsucc
      rw [lineWrap_below hon (by rw [BitVec.lt_def]; omega)]
      simp [breakAfter, lineCountAfter, hoff, hsucc, BitVec.ofNat_add]

/-! ## The wire format (R125, R127) -/

/-- The encoder between the `k`-th and the next group of a stream. -/
def encBetweenGroups (c : Cfg) (k : Nat) : Enc := { acc := 0, step := .zero, linecnt := lineCountAfter c k }

theorem encBetweenGroups_zero (c : Cfg) : encBetweenGroups c 0 = Enc.reset := by
  simp [encBetweenGroups, lineCountAfter, Enc.reset]

theorem encEffects_firstByte (c : Cfg) (k : Nat) (b : Byte) (is : List Instr) :
    encEffects c (encBetweenGroups c k) (.encWrite b :: is) =
      encEffects c { acc := ofBytes b 0 0, step := .one, linecnt := lineCountAfter c k } is := by
  simp [encEffects, encEffect, encBetweenGroups, encWriteEffect]

theorem encEffects_secondByte (c : Cfg) (n : LineCount) (b1 b2 : Byte) (is : List Instr) :
    encEffects c { acc := ofBytes b1 0 0, step := .one, linecnt := n } (.encWrite b2 :: is) =
      encEffects c { acc := ofBytes b1 b2 0, step := .two, linecnt := n } is := by
  simp [encEffects, encEffect, encWriteEffect]

theorem encEffects_thirdByte (c : Cfg) (k : Nat) (b1 b2 b3 : Byte) (is : List Instr) :
    encEffects c { acc := ofBytes b1 b2 0, step := .two, linecnt := lineCountAfter c k } (.encWrite b3 :: is) =
      (groupSymbols c (ofBytes b1 b2 b3) ++ breakAfter c (k + 1) ++ (encEffects c (encBetweenGroups c (k + 1)) is).1,
        (encEffects c (encBetweenGroups c (k + 1)) is).2) := by
  simp [encEffects, encEffect, encWriteEffect, lineWrap_lineCountAfter, encBetweenGroups]

theorem padding_eq_padItems (c : Cfg) (n : Nat) : padding c n = padItems c n := rfl

/-- The writes and ENC_FINALIZE from between two groups on: the group of each three bytes, then the tail. -/
theorem encEffects_stream (c : Cfg) (k : Nat) (bs : List Byte) :
    encEffects c (encBetweenGroups c k) (bs.map .encWrite ++ [.encFinalize]) =
      (wire c k bs ++ [.endOfStream], Enc.reset) := by
  induction k, bs using wire.induct with
  | case1 k b1 b2 b3 rest ih =>
    simp only [List.map_cons, List.cons_append, encEffects_firstByte, encEffects_secondByte, encEffects_thirdByte, ih]
    simp [wire, groupSymbols, symItem, sym1_ofBytes, sym2_ofBytes, sym3_ofBytes, sym4_ofBytes]
  | case2 k b1 b2 =>
    simp only [List.map_cons, List.map_nil, List.cons_append, List.nil_append, encEffects_firstByte,
      encEffects_secondByte]
    simp [encEffects, encEffect, tailItems, wire, symItem, sym1_ofBytes, sym2_ofBytes, sym3_ofBytes,
      padding_eq_padItems]
  | case3 k b1 =>
    simp only [List.map_cons, List.map_nil, List.cons_append, List.nil_append, encEffects_firstByte]
    simp [encEffects, encEffect, tailItems, wire, symItem, sym1_ofBytes, sym2_ofBytes, padding_eq_padItems]
  | case4 k => simp [encEffects, encEffect, encBetweenGroups, tailItems, wire]

theorem encStream_streamed (bs : List Byte) {s : State} (hs : s.calm) (henc : s.enc = Enc.reset) :
    ∃ t, encStream bs s = some t ∧ s.Streamed (wire s.cfg 0 bs ++ [.endOfStream], Enc.reset) t := by
  have his : ∀ i ∈ bs.map Instr.encWrite ++ [.encFinalize], StreamCommand i := by
    simpa [or_imp, forall_and] using ⟨fun b _ => .inl ⟨b, rfl⟩, .inr (.inr (.inl rfl))⟩
  have hrun := hostRun_stream his hs
  rwa [henc, ← encBetweenGroups_zero s.cfg, encEffects_stream] at hrun

/-- Settles O54: from a cleared encoder the commands' effects are the wire format. -/
theorem encodeStreamIsWireFormat : Obligations.EncodeStreamIsWireFormat := by
  intro bs s hs henc
  obtain ⟨t, hrun, ht⟩ := encStream_streamed bs hs henc
  exact ⟨t, hrun, by rw [ht.out, List.append_assoc], ht.enc, ht.cfg, ht.dec, ht.inp, ht.calm⟩

/-! ## Padding and length (R126) -/

/-- The line breaks after the first `k` complete groups. -/
def breaksUpTo (c : Cfg) (k : Nat) : Nat := if c.threshold = 0 then 0 else 4 * k / c.threshold

theorem breaksUpTo_zero (c : Cfg) : breaksUpTo c 0 = 0 := by simp [breaksUpTo]

/-- A group's break is what it adds to the breaks so far, 2 items each. -/
theorem breakAfter_length_add (c : Cfg) (k : Nat) :
    (breakAfter c (k + 1)).length + 2 * breaksUpTo c k = 2 * breaksUpTo c (k + 1) := by
  obtain ⟨m, hm⟩ := c.four_dvd_threshold
  have hdvd : 4 * (k + 1) % (4 * m) = 0 ↔ m ∣ k + 1 := by
    rw [← Nat.dvd_iff_mod_eq_zero, Nat.mul_dvd_mul_iff_left (by decide)]
  have hdiv : ∀ n, 4 * n / (4 * m) = n / m := fun n => Nat.mul_div_mul_left n m (by decide)
  by_cases hoff : c.threshold = 0
  · simp [breakAfter, breaksUpTo, hoff]
  · rw [hm] at hoff
    simp only [breakAfter, breaksUpTo, hm, hoff, hdvd, hdiv, Nat.succ_div, if_false, ne_eq, not_false_eq_true, true_and]
    split
    · simp only [List.length_cons, List.length_nil]
      omega
    · simp

theorem padItems_eq_replicate (c : Cfg) (n : Nat) :
    padItems c n = List.replicate (if c.pad = 0 then 0 else n) (.byte c.pad) := by
  unfold padItems
  split <;> rfl

theorem wire_eq_body_append_padding (c : Cfg) (k : Nat) (bs : List Byte) :
    ∃ body, wire c k bs = body ++ padItems c ((3 - bs.length % 3) % 3) ∧
      body.length + 2 * breaksUpTo c k = 4 * (bs.length / 3) + (if bs.length % 3 = 0 then 0 else bs.length % 3 + 1) +
        2 * breaksUpTo c (k + bs.length / 3) := by
  induction k, bs using wire.induct with
  | case1 k b1 b2 b3 rest ih =>
    obtain ⟨body, hwire, hlen⟩ := ih
    have hbreak := breakAfter_length_add c k
    have hcount : (b1 :: b2 :: b3 :: rest).length = rest.length + 3 := rfl
    have hmod : (rest.length + 3) % 3 = rest.length % 3 := Nat.add_mod_right _ 3
    have hdiv : (rest.length + 3) / 3 = rest.length / 3 + 1 := Nat.add_div_right _ (Nat.succ_pos 2)
    have hgroups : k + (rest.length / 3 + 1) = k + 1 + rest.length / 3 := by omega
    rw [hcount, hmod, hdiv, hgroups, wire, hwire, ← List.append_assoc]
    refine ⟨_, rfl, ?_⟩
    simp only [List.length_append, List.length_cons, List.length_nil]
    omega
  | case2 k b1 b2 => exact ⟨_, rfl, by simp⟩
  | case3 k b1 => exact ⟨_, rfl, by simp⟩
  | case4 k => exact ⟨[], by simp [wire, padItems], by simp⟩

/-- Settles O55: the wire format ends with its padding, and what stands before has the length stated. -/
theorem paddingLaw : Obligations.PaddingLaw := by
  intro bs s hs henc
  obtain ⟨t, hrun, ht⟩ := encStream_streamed bs hs henc
  obtain ⟨body, hwire, hlen⟩ := wire_eq_body_append_padding s.cfg 0 bs
  refine ⟨t, body, hrun, ?_, ?_⟩
  · rw [ht.out, hwire, padItems_eq_replicate]
    simp only [List.append_assoc]
  · simpa [breaksUpTo_zero, breaksUpTo] using hlen

end Sys2Proof.Machine

/-!
PROOF. The decoder commands one at a time: the class of a byte, DEC_READ with a byte pending, with a group of symbols and
at end-of-data, and the cases of DEC_HAS_MORE (spec 42_decoder.md R150 to R156, R159).
-/

namespace Sys2Proof.Machine

/-! ## The class of a byte (R150) -/

theorem isSkip_iff (b : Byte) : isSkip b = true ↔ b.toNat ≤ 0x20 := by
  simp [isSkip, BitVec.le_def]

theorem isSkip_eq_false_iff (b : Byte) : isSkip b = false ↔ 0x20 < b.toNat := by
  simp [isSkip, BitVec.lt_def]

theorem isPad_iff (c : Cfg) (b : Byte) : isPad c b = true ↔ b = 0x3D#8 ∨ (c.pad ≠ 0 ∧ b = c.pad) := by
  simp [isPad]

theorem isPad_eq_false_iff (c : Cfg) (b : Byte) : isPad c b = false ↔ b ≠ 0x3D#8 ∧ (c.pad = 0 ∨ b ≠ c.pad) := by
  rw [Bool.eq_false_iff, ne_eq, isPad_iff]
  tauto

/-- Settles O22: each class with the tests that fail before it. -/
theorem classifyTestsInOrder : Obligations.ClassifyTestsInOrder := by
  intro c b
  refine ⟨fun hskip => (classify_skip_iff c b).2 ((isSkip_iff b).2 hskip), fun hnoskip => ?_⟩
  have hskip := (isSkip_eq_false_iff b).2 hnoskip
  refine ⟨fun heq => ?_, fun hon hpad => ?_, fun hne hnopad => ?_⟩
  · exact (classify_pad_iff c b).2 ⟨hskip, (isPad_iff c b).2 (.inl heq)⟩
  · exact (classify_pad_iff c b).2 ⟨hskip, (isPad_iff c b).2 (.inr ⟨hon, hpad⟩)⟩
  · have hpad := (isPad_eq_false_iff c b).2 ⟨hne, hnopad⟩
    exact ⟨fun v hv => (classify_sym_iff c b v).2 ⟨hskip, hpad, hv⟩,
      fun hnone => (classify_invalid_iff c b).2 ⟨hskip, hpad, hnone⟩⟩

/-! ## DEC_READ with a byte pending (R153) -/

/-- The response BYTE (R74, R75). Its bits are those of ENC_WRITE's word: a 1 above the byte. -/
theorem responseWord_byte (b : Byte) : responseWord .byte (b.setWidth 24) = 0x100000#24 ++ b := encode_encWrite b

theorem Dec.pending_eq_false_iff (d : Dec) : d.pending = false ↔ d.fill.toNat ≤ d.step.toNat := by
  rw [Bool.eq_false_iff, ne_eq, Dec.pending_iff, Nat.not_lt]

theorem execDecRead_of_pending {s : State} (hrsp : s.rspReady.accepts 1 = true) (herr : s.dec.err = false)
    (hpending : s.dec.pending = true) :
    execDecRead s = .next (State.answered { s with dec := { s.dec with step := s.dec.step + 1 } }
      (0x100000#24 ++ (if s.dec.step = 1 then byte2 s.dec.acc else byte3 s.dec.acc))) := by
  have hpath : execDecRead s = .next (returnPending s) := by simp [execDecRead, herr, hpending]
  rw [hpath, returnPending, ← responseWord_byte]
  exact congrArg _ (respond_of_accepts _ _ hrsp)

/-- Settles O30: the pending byte is answered and the step advances. -/
theorem decReadReturnsPendingByte : Obligations.DecReadReturnsPendingByte :=
  fun s hrsp herr hstep => execDecRead_of_pending hrsp herr (s.dec.pending_iff.2 hstep)

/-! ## DEC_READ of a group (R152) -/

theorem ofSyms_toNat (v1 v2 v3 v4 : SymVal) :
    (ofSyms v1 v2 v3 v4).toNat = v1.toNat * 262144 + v2.toNat * 4096 + v3.toNat * 64 + v4.toNat := by
  rw [ofSyms, toNat_append_eq_add, toNat_append_eq_add, toNat_append_eq_add]
  omega

/-- The first byte is the first symbol and the top of the second (R57). -/
theorem byte1_ofSyms (v1 v2 v3 v4 : SymVal) : byte1 (ofSyms v1 v2 v3 v4) = v1 ++ v2.extractLsb' 4 2 := by
  apply BitVec.eq_of_toNat_eq
  simp only [byte1, extractLsb'_toNat_eq_mod, ofSyms_toNat, toNat_append_eq_add]
  omega

theorem assemble_one (v1 : SymVal) : assemble [v1] = v1 ++ 0#18 := by
  apply BitVec.eq_of_toNat_eq
  show (ofSyms v1 0 0 0).toNat = _
  rw [ofSyms_toNat, toNat_append_eq_add]
  simp

theorem assemble_two (v1 v2 : SymVal) : assemble [v1, v2] = v1 ++ v2 ++ 0#12 := by
  apply BitVec.eq_of_toNat_eq
  show (ofSyms v1 v2 0 0).toNat = _
  rw [ofSyms_toNat, toNat_append_eq_add, toNat_append_eq_add]
  simp
  omega

/-- With nothing pending DEC_READ fetches a group and gives its result. -/
theorem execDecRead_of_symbols {s : State} {ws : List SymVal} {e : Bool} {rest : List InItem}
    (herr : s.dec.err = false) (hpending : s.dec.pending = false)
    (hfetch : fetchGroup s.cfg 4 [] s.dec.exhausted s.inp = ⟨.symbols ws, e, rest⟩) :
    execDecRead s = .next (groupResult ws ((s.withInp rest).withDec (s.dec.setExhausted e))) := by
  rw [execDecRead_of_not_pending herr hpending, continueRead_nil, hfetch]
  rfl

/-- A group without a byte: the answer EOD (R152, R155). -/
theorem execDecRead_of_no_byte {s : State} {ws : List SymVal} {e : Bool} {rest : List InItem}
    (hrsp : s.rspReady.accepts 1 = true) (herr : s.dec.err = false) (hpending : s.dec.pending = false)
    (hfetch : fetchGroup s.cfg 4 [] s.dec.exhausted s.inp = ⟨.symbols ws, e, rest⟩)
    (hnone : yieldsNothing s.policy ws.length = true) :
    execDecRead s = .next (State.answered
      { s with inp := rest, dec := { s.dec with fill := 0, step := 0, exhausted := e } } 0x20000000#32) := by
  rw [execDecRead_of_symbols herr hpending hfetch, groupResult]
  exact congrArg _ ((if_pos hnone).trans (respond_of_accepts _ _ hrsp))

/-- A group with a byte: it is assembled and the first byte answered (R152). -/
theorem execDecRead_of_byte {s : State} {ws : List SymVal} {e : Bool} {rest : List InItem}
    (hrsp : s.rspReady.accepts 1 = true) (herr : s.dec.err = false) (hpending : s.dec.pending = false)
    (hfetch : fetchGroup s.cfg 4 [] s.dec.exhausted s.inp = ⟨.symbols ws, e, rest⟩)
    (hsome : yieldsNothing s.policy ws.length = false) :
    execDecRead s = .next (State.answered
      { s with
        inp := rest
        dec := { acc := assemble ws, fill := fillOf ws.length, step := 1, exhausted := e, err := false } }
      (0x100000#24 ++ byte1 (assemble ws))) := by
  rw [execDecRead_of_symbols herr hpending hfetch, groupResult, ← responseWord_byte, ← herr]
  exact congrArg _ ((if_neg (Bool.eq_false_iff.1 hsome)).trans (respond_of_accepts _ _ hrsp))

/-- One symbol yields a byte under EMIT_PARTIAL, more symbols under either policy (R155). -/
theorem yieldsNothing_of_two_le (p : SingleSymbolPolicy) {n : Nat} (h : 2 ≤ n) : yieldsNothing p n = false := by
  have h₀ : n ≠ 0 := by omega
  have h₁ : n ≠ 1 := by omega
  simp [yieldsNothing, h₀, h₁]

theorem SymRun.length_values (g : SymRun) : (SymRun.values g).length = List.length g := List.length_map _

/-- Four symbols are fetched and nothing behind them is touched (R151, R153). -/
theorem fetchGroup_full {c : Cfg} {g : SymRun} (hg : SymRun.valid c g) (hlen : (SymRun.values g).length = 4)
    (rest : List InItem) :
    fetchGroup c 4 [] false (SymRun.items g ++ rest) = ⟨.symbols (SymRun.values g), false, rest⟩ := by
  have hfour : 4 = 0 + List.length g := by rw [← SymRun.length_values, hlen]
  rw [hfour, fetchGroup_run c hg]
  rfl

/-- Settles O31: the row of four symbols. -/
theorem decReadDecodesFullGroup : Obligations.DecReadDecodesFullGroup := by
  intro s g rest v1 v2 v3 v4 hrsp herr hfill hexh hvalid hvalues hinp
  have hfetch : fetchGroup s.cfg 4 [] s.dec.exhausted s.inp = ⟨.symbols [v1, v2, v3, v4], false, rest⟩ := by
    rw [hexh, hinp, fetchGroup_full hvalid (by rw [hvalues]; rfl), hvalues]
  have hbyte := execDecRead_of_byte hrsp herr (s.dec.pending_eq_false_iff.2 hfill) hfetch
    (yieldsNothing_of_two_le _ (by simp))
  rwa [show byte1 (assemble [v1, v2, v3, v4]) = v1 ++ v2.extractLsb' 4 2 from byte1_ofSyms v1 v2 v3 v4] at hbyte

/-! ## DEC_READ of a group that ends at end-of-data (R152, R155) -/

/-- The item that ends the data ends a symbol fetch, skip bytes before it or not (R151). -/
theorem takeSymbol_of_endsData {c : Cfg} {stop : InItem} (hstop : endsData c stop) {gap : List Byte}
    (hgap : ∀ b ∈ gap, isSkip b = true) (rest : List InItem) :
    takeSymbol c (inBytes gap ++ stop :: rest) = ⟨.eod, true, rest⟩ := by
  rw [takeSymbol_skips c gap _ hgap]
  obtain rfl | ⟨b, rfl, hpad⟩ := hstop
  · exact takeSymbol_endOfStream c rest
  · exact takeSymbol_pad c b rest hpad

/-- Fewer than four symbols and the end of the data: the fetch ends with them, exhausted (R151, R153). -/
theorem fetchGroup_partial {c : Cfg} {g : SymRun} (hg : SymRun.valid c g) (hlen : (SymRun.values g).length < 4)
    {gap : List Byte} (hgap : ∀ b ∈ gap, isSkip b = true) {stop : InItem} (hstop : endsData c stop)
    (rest : List InItem) :
    fetchGroup c 4 [] false (SymRun.items g ++ inBytes gap ++ stop :: rest) =
      ⟨.symbols (SymRun.values g), true, rest⟩ := by
  obtain ⟨todo, htodo⟩ : ∃ todo, 4 = todo + 1 + List.length g :=
    ⟨3 - List.length g, by rw [SymRun.length_values] at hlen; omega⟩
  rw [htodo, List.append_assoc, fetchGroup_run c hg, List.nil_append, fetchGroup, nextSymbol_fresh,
    takeSymbol_of_endsData hstop hgap]

/-- Settles O32: the rows of zero to three symbols, the single symbol's by the policy. -/
theorem decReadDecodesPartialGroup : Obligations.DecReadDecodesPartialGroup := by
  intro s g gap stop rest hrsp herr hfill hexh hvalid hgap hstop hinp
  have hpending := s.dec.pending_eq_false_iff.2 hfill
  have hfetch : ∀ {ws}, SymRun.values g = ws → ws.length < 4 →
      fetchGroup s.cfg 4 [] s.dec.exhausted s.inp = ⟨.symbols ws, true, rest⟩ := by
    rintro _ rfl hlen
    rw [hexh, hinp, fetchGroup_partial hvalid hlen (fun b hb => (isSkip_iff b).2 (hgap b hb)) hstop]
  refine ⟨fun hvalues => ?_, fun v1 hvalues hpolicy => ?_, fun v1 hvalues hpolicy => ?_, fun v1 v2 hvalues => ?_,
    fun v1 v2 v3 hvalues => ?_⟩
  · exact execDecRead_of_no_byte hrsp herr hpending (hfetch hvalues (by simp)) rfl
  · have hbyte := execDecRead_of_byte hrsp herr hpending (hfetch hvalues (by simp)) (by rw [hpolicy]; rfl)
    rwa [show byte1 (assemble [v1]) = v1 ++ 0#2 from byte1_ofSyms v1 0 0 0, assemble_one] at hbyte
  · exact execDecRead_of_no_byte hrsp herr hpending (hfetch hvalues (by simp)) (by rw [hpolicy]; rfl)
  · have hbyte := execDecRead_of_byte hrsp herr hpending (hfetch hvalues (by simp))
      (yieldsNothing_of_two_le _ (by simp))
    rwa [show byte1 (assemble [v1, v2]) = v1 ++ v2.extractLsb' 4 2 from byte1_ofSyms v1 v2 0 0, assemble_two]
      at hbyte
  · have hbyte := execDecRead_of_byte hrsp herr hpending (hfetch hvalues (by simp))
      (yieldsNothing_of_two_le _ (by simp))
    rwa [show byte1 (assemble [v1, v2, v3]) = v1 ++ v2.extractLsb' 4 2 from byte1_ofSyms v1 v2 v3 0] at hbyte

/-! ## End-of-data persists (R34, R154) -/

/-- An exhausted decoder fetches no symbol and stays exhausted. -/
theorem fetchGroup_exhausted (c : Cfg) (todo : Nat) (vs : List SymVal) (inp : List InItem) :
    fetchGroup c todo vs true inp = ⟨.symbols vs, true, inp⟩ := by
  cases todo <;> rfl

theorem execDecRead_of_exhausted {s : State} (hrsp : s.rspReady.accepts 1 = true) (herr : s.dec.err = false)
    (hpending : s.dec.pending = false) (hexh : s.dec.exhausted = true) :
    execDecRead s =
      .next (State.answered { s with dec := { s.dec with fill := 0, step := 0 } } 0x20000000#32) := by
  have hfetch : fetchGroup s.cfg 4 [] s.dec.exhausted s.inp = ⟨.symbols [], s.dec.exhausted, s.inp⟩ := by
    rw [hexh, fetchGroup_exhausted]
  exact execDecRead_of_no_byte hrsp herr hpending hfetch rfl

theorem groupResult_exhausted (vs : List SymVal) (s : State) :
    (groupResult vs s).dec.exhausted = s.dec.exhausted := by
  rcases groupResult_cases vs s with h | h <;> simp [h]

theorem continueRead_keeps_exhausted (vs : List SymVal) {s : State} (h : s.dec.exhausted = true) :
    (continueRead vs s).dec.exhausted = true := by
  rw [continueRead_eq_endRead, h, fetchGroup_exhausted]
  exact groupResult_exhausted vs _

theorem continuePeek_keeps_exhausted {s : State} (h : s.dec.exhausted = true) :
    (continuePeek s).dec.exhausted = true := by
  rcases continuePeek_cases s with hpeek | hpeek | hpeek <;> simp [hpeek, h]

theorem execDecRead_keeps_exhausted {s t : State} (h : execDecRead s = .next t) (hexh : s.dec.exhausted = true) :
    t.dec.exhausted = true := by
  obtain ⟨-, rfl⟩ | ⟨-, -, rfl⟩ | ⟨-, -, rfl⟩ := execDecRead_cases h
  · simpa using hexh
  · simpa [returnPending] using hexh
  · exact continueRead_keeps_exhausted [] hexh

theorem execDecHasMore_keeps_exhausted {s t : State} (h : execDecHasMore s = .next t)
    (hexh : s.dec.exhausted = true) : t.dec.exhausted = true := by
  obtain ⟨rc, data, rfl⟩ | ⟨-, rfl⟩ := execDecHasMore_cases h
  · simpa using hexh
  · exact continuePeek_keeps_exhausted hexh

/-- The decoder's registers are written by the decoder commands and SRST alone (R61). -/
theorem exec_dec_of_not_decoder {i : Instr} {s t : State} (hread : i ≠ .decRead) (hmore : i ≠ .decHasMore)
    (hsrst : ∀ m, i ≠ .srst m) (h : exec i s = .next t) : t.dec = s.dec := by
  cases i
  case encWrite b =>
    cases (exec_encWrite b s).symm.trans h
    exact emitThenOk_dec _ _
  case encFlush => cases h; exact emitThenOk_dec _ _
  case encFinalize => cases h; exact emitThenOk_dec _ _
  case decRead => exact absurd rfl hread
  case decHasMore => exact absurd rfl hmore
  case srst m => exact absurd rfl (hsrst m)
  all_goals cases h; exact respond_dec _ _ _

/-- Of all commands only SRST with the decoder bit clears `dec.exhausted` (R34, R193). -/
theorem exec_clears_exhausted {i : Instr} {s t : State} (h : exec i s = .next t) (hs : s.dec.exhausted = true)
    (ht : t.dec.exhausted = false) : ∃ m, i = .srst m ∧ m.getLsbD 1 = true := by
  by_cases hread : i = .decRead
  · subst hread
    exact absurd (execDecRead_keeps_exhausted h hs) (by simp [ht])
  by_cases hmore : i = .decHasMore
  · subst hmore
    exact absurd (execDecHasMore_keeps_exhausted h hs) (by simp [ht])
  by_cases hsrst : ∃ m, i = .srst m
  · obtain ⟨m, rfl⟩ := hsrst
    cases h
    refine ⟨m, rfl, by_contra fun hbit => ?_⟩
    rw [respond_dec, softReset_dec, if_neg hbit, hs] at ht
    cases ht
  · rw [exec_dec_of_not_decoder hread hmore (not_exists.1 hsrst) h, hs] at ht
    cases ht

/-- Settles O35: the answer EOD, and what a step does to an exhausted decoder. -/
theorem endOfDataPersists : Obligations.EndOfDataPersists := by
  refine ⟨fun s hrsp herr hfill hexh =>
    execDecRead_of_exhausted hrsp herr (s.dec.pending_eq_false_iff.2 hfill) hexh, fun s t h hs ht => ?_⟩
  obtain ⟨hrst, -⟩ | ⟨-, -, -, rfl⟩ | ⟨w, rest, i, ha, hd, hexec⟩ | ⟨w, rest, e, -, -, rfl⟩ | ⟨syms, -, -, rfl⟩ |
    ⟨-, -, rfl⟩ | ⟨items, -, -, rfl⟩ | ⟨w, -, -, rfl⟩ := step_cases h
  · exact .inl hrst
  · simp [hs] at ht
  · obtain ⟨m, rfl, hbit⟩ := exec_clears_exhausted (s := { s with cmds := rest }) hexec hs ht
    exact .inr ⟨w, rest, m, ha, hd, hbit⟩
  · simp [raise_illegal, hs] at ht
  · simp [continueRead_keeps_exhausted syms hs] at ht
  · simp [continuePeek_keeps_exhausted hs] at ht
  · simp [hs] at ht
  · simp [hs] at ht

/-! ## DEC_HAS_MORE (R156, R159) -/

theorem execDecHasMore_of_err {s : State} (herr : s.dec.err = true) :
    execDecHasMore s = .next (respond .errSymbol 0 s) := by
  simp [execDecHasMore, herr]

theorem execDecHasMore_of_pending {s : State} (herr : s.dec.err = false) (hpending : s.dec.pending = true) :
    execDecHasMore s = .next (respond .ok 1 s) := by
  simp [execDecHasMore, herr, hpending]

theorem execDecHasMore_of_exhausted {s : State} (herr : s.dec.err = false) (hpending : s.dec.pending = false)
    (hexh : s.dec.exhausted = true) : execDecHasMore s = .next (respond .ok 0 s) := by
  simp [execDecHasMore, herr, hpending, hexh]

/-- Settles O39: one equation a case, and the encoding. -/
theorem decHasMoreLooksAhead : Obligations.DecHasMoreLooksAhead := by
  refine ⟨by decide, fun _ _ => raisesIllegal_of_malformed, fun s => ⟨fun hrsp => ?_, fun herr hfill hexh hinp => ?_⟩⟩
  · refine ⟨fun herr => ?_, fun herr hstep => ?_, fun herr hfill => ?_⟩
    · exact (execDecHasMore_of_err herr).trans (congrArg _ (respond_of_accepts _ _ hrsp))
    · exact (execDecHasMore_of_pending herr (s.dec.pending_iff.2 hstep)).trans
        (congrArg _ (respond_of_accepts _ _ hrsp))
    · have hpending := s.dec.pending_eq_false_iff.2 hfill
      refine ⟨fun hexh => ?_, fun hexh rest hinp => ?_, fun hexh b rest hinp => ?_⟩
      · exact (execDecHasMore_of_exhausted herr hpending hexh).trans (congrArg _ (respond_of_accepts _ _ hrsp))
      · have hpeek := execDecHasMore_of_wantsInput (s.dec.wantsInput_iff.2 ⟨herr, hpending, hexh⟩)
        rw [continuePeek_of_endOfStream hinp] at hpeek
        exact hpeek.trans (congrArg _ (respond_of_accepts _ _ hrsp))
      · have hpeek := execDecHasMore_of_wantsInput (s.dec.wantsInput_iff.2 ⟨herr, hpending, hexh⟩)
        rw [continuePeek_of_byte hinp] at hpeek
        exact hpeek.trans (congrArg _ (respond_of_accepts _ _ hrsp))
  · have hpeek := execDecHasMore_of_wantsInput
      (s.dec.wantsInput_iff.2 ⟨herr, s.dec.pending_eq_false_iff.2 hfill, hexh⟩)
    rwa [continuePeek_of_nil hinp] at hpeek

/-- What DEC_HAS_MORE has found where its answer has transferred: a symbol error, 1 for a byte pending or in the channel,
or 0 for a stream that has ended (R156). -/
theorem decHasMore_answer {s t : State} {r : Word} (h : exec .decHasMore s = .next t) (hrsp : t.rsp = s.rsp ++ [r]) :
    r = 0x90000000#32 ∨ (r = 1#32 ∧ t.dec = s.dec ∧ s.dec.err = false) ∨
      (r = 0#32 ∧ t.dec.err = false ∧ t.dec.pending = false ∧ t.dec.exhausted = true) := by
  cases herr : s.dec.err with
  | true =>
    cases (execDecHasMore_of_err herr).symm.trans h
    exact .inl (responseWord_eq_of_respond_rsp hrsp).symm
  | false =>
  cases hpending : s.dec.pending with
  | true =>
    cases (execDecHasMore_of_pending herr hpending).symm.trans h
    exact .inr (.inl ⟨(responseWord_eq_of_respond_rsp hrsp).symm, respond_dec _ _ _, rfl⟩)
  | false =>
  cases hexh : s.dec.exhausted with
  | true =>
    cases (execDecHasMore_of_exhausted herr hpending hexh).symm.trans h
    exact .inr (.inr ⟨(responseWord_eq_of_respond_rsp hrsp).symm, by simp [herr, hpending, hexh]⟩)
  | false =>
    cases (execDecHasMore_of_wantsInput (s.dec.wantsInput_iff.2 ⟨herr, hpending, hexh⟩)).symm.trans h
    cases hinp : s.inp with
    | nil => simp [continuePeek_of_nil hinp] at hrsp
    | cons it rest =>
      cases it with
      | endOfStream =>
        rw [continuePeek_of_endOfStream hinp] at hrsp ⊢
        have hsame : (s.dec.setExhausted true).pending = false := hpending
        exact .inr (.inr ⟨(responseWord_eq_of_respond_rsp hrsp).symm, by simp [herr, hsame]⟩)
      | byte b =>
        rw [continuePeek_of_byte hinp] at hrsp ⊢
        exact .inr (.inl ⟨(responseWord_eq_of_respond_rsp hrsp).symm, respond_dec _ _ _, rfl⟩)

/-- Settles O41: the answer 0 leaves an exhausted decoder, the answer 1 the pending byte. -/
theorem moreDataLaw : Obligations.MoreDataLaw := by
  refine fun s t h hready => ⟨fun hrsp => ?_, fun hrsp hstep => ?_⟩
  · obtain hr | ⟨hr, -⟩ | ⟨-, herr, hpending, hexh⟩ := decHasMore_answer h hrsp
    · exact absurd hr (by decide)
    · exact absurd hr (by decide)
    · exact ⟨_, execDecRead_of_exhausted hready herr hpending hexh, rfl⟩
  · obtain hr | ⟨-, hdec, herr⟩ | ⟨hr, -⟩ := decHasMore_answer h hrsp
    · exact absurd hr (by decide)
    · have hpending : t.dec.pending = true := t.dec.pending_iff.2 (hdec ▸ hstep)
      refine ⟨_, _, execDecRead_of_pending hready (hdec ▸ herr) hpending, rfl, ?_⟩
      rw [← responseWord_byte, responseCode_responseWord]
      rfl
    · exact absurd hr (by decide)

end Sys2Proof.Machine

/-!
PROOF. The whitespace law: skip bytes before the item that ends the stream change no answer of the host's read loop (spec
42_decoder.md R158; 30_encoding.md R87).
-/

namespace Sys2Proof.Machine

/-! ## The bytes that are not skipped (R150) -/

theorem forall_isSkip_of_withoutSkips_nil {bs : List Byte} (h : withoutSkips bs = []) : ∀ b ∈ bs, isSkip b = true := by
  simpa [withoutSkips, List.filter_eq_nil_iff] using h

/-- The first byte that is not skipped, with the skip bytes before it. -/
theorem exists_gap_of_withoutSkips_cons {bs xs : List Byte} {x : Byte} (h : withoutSkips bs = x :: xs) :
    ∃ gap tail, bs = gap ++ x :: tail ∧ (∀ b ∈ gap, isSkip b = true) ∧ isSkip x = false ∧ withoutSkips tail = xs := by
  obtain ⟨gap, tail, rfl, hgap, hx, htail⟩ := List.filter_eq_cons_iff.1 h
  exact ⟨gap, tail, rfl, by simpa using hgap, by simpa using hx, htail⟩

theorem inBytes_append_cons (gap tail : List Byte) (x : Byte) (l : List InItem) :
    inBytes (gap ++ x :: tail) ++ l = inBytes gap ++ .byte x :: (inBytes tail ++ l) := by
  simp [inBytes]

/-! ## Inputs that differ in skip bytes (R158) -/

/-- Two inputs the decoder cannot tell apart: it is exhausted, or up to the item that ends the data they differ only in
skip bytes. -/
def AlikeInput (c : Cfg) (exhausted : Bool) (l m : List InItem) : Prop :=
  exhausted = true ∨ ∃ a b stop rest rest', endsData c stop ∧ withoutSkips a = withoutSkips b ∧
    l = inBytes a ++ stop :: rest ∧ m = inBytes b ++ stop :: rest'

/-- A byte that is not skipped gives a verdict and is the only item taken (R151). -/
theorem takeSymbol_of_not_skip (c : Cfg) {x : Byte} (hx : isSkip x = false) :
    ∃ v e, v ≠ .wait ∧ ∀ rest, takeSymbol c (.byte x :: rest) = ⟨v, e, rest⟩ := by
  cases h : classify c x with
  | skip => simp [(classify_skip_iff c x).1 h] at hx
  | pad => exact ⟨.eod, true, nofun, fun rest => takeSymbol_pad c x rest h⟩
  | sym v => exact ⟨.sym v, false, nofun, fun rest => takeSymbol_sym c x v rest h⟩
  | invalid => exact ⟨.invalid, false, nofun, fun rest => takeSymbol_invalid c x rest h⟩

/-- A symbol fetch finds the same in both inputs and leaves them alike. -/
theorem nextSymbol_alike {c : Cfg} {e : Bool} {l m : List InItem} (h : AlikeInput c e l m) :
    ∃ v e' l' m', v ≠ .wait ∧ nextSymbol c e l = ⟨v, e', l'⟩ ∧ nextSymbol c e m = ⟨v, e', m'⟩ ∧
      AlikeInput c e' l' m' := by
  cases e with
  | true => exact ⟨.eod, true, l, m, nofun, rfl, rfl, .inl rfl⟩
  | false =>
    obtain h | ⟨a, b, stop, rest, rest', hstop, hab, rfl, rfl⟩ := h
    · cases h
    simp only [nextSymbol_fresh]
    cases ha : withoutSkips a with
    | nil =>
      have hskipsa := forall_isSkip_of_withoutSkips_nil ha
      have hskipsb := forall_isSkip_of_withoutSkips_nil (hab.symm.trans ha)
      exact ⟨.eod, true, rest, rest', nofun, takeSymbol_of_endsData hstop hskipsa rest,
        takeSymbol_of_endsData hstop hskipsb rest', .inl rfl⟩
    | cons x xs =>
      obtain ⟨gapa, taila, rfl, hgapa, hx, htaila⟩ := exists_gap_of_withoutSkips_cons ha
      obtain ⟨gapb, tailb, rfl, hgapb, -, htailb⟩ := exists_gap_of_withoutSkips_cons (hab.symm.trans ha)
      obtain ⟨v, e, hv, htake⟩ := takeSymbol_of_not_skip c hx
      refine ⟨v, e, _, _, hv, ?_, ?_, .inr ⟨taila, tailb, stop, rest, rest', hstop, htaila.trans htailb.symm, rfl, rfl⟩⟩
      · rw [inBytes_append_cons, takeSymbol_skips c gapa _ hgapa, htake]
      · rw [inBytes_append_cons, takeSymbol_skips c gapb _ hgapb, htake]

/-- So does a group fetch, and it does not wait. -/
theorem fetchGroup_alike {c : Cfg} {e : Bool} {l m : List InItem} (h : AlikeInput c e l m) (todo : Nat)
    (vs : List SymVal) :
    ∃ v e' l' m', (∀ ws, v ≠ .wait ws) ∧ fetchGroup c todo vs e l = ⟨v, e', l'⟩ ∧
      fetchGroup c todo vs e m = ⟨v, e', m'⟩ ∧ AlikeInput c e' l' m' := by
  induction todo generalizing vs e l m with
  | zero => exact ⟨.symbols vs, e, l, m, nofun, rfl, rfl, h⟩
  | succ todo ih =>
    obtain ⟨v, e', l', m', hv, hl, hm, halike⟩ := nextSymbol_alike h
    simp only [fetchGroup, hl, hm]
    cases v with
    | sym v => exact ih halike (vs ++ [v])
    | eod => exact ⟨.symbols vs, e', l', m', nofun, rfl, rfl, halike⟩
    | invalid => exact ⟨.invalid, e', l', m', nofun, rfl, rfl, halike⟩
    | wait => exact absurd rfl hv

/-- DEC_READ after a fetch that does not wait answers; the items left do not matter to the answer. -/
theorem endRead_answers {v : GroupVerdict} (hv : ∀ ws, v ≠ .wait ws) (e : Bool) {s : State}
    (hrsp : s.rspReady.accepts 1 = true) :
    ∃ r d, d.exhausted = e ∧ ∀ l, endRead ⟨v, e, l⟩ s = ((s.withInp l).withDec d).answered r := by
  have hanswer : ∀ rc data d l, respond rc data ((s.withInp l).withDec d) =
      ((s.withInp l).withDec d).answered (responseWord rc data) := fun _ _ _ _ => respond_of_accepts _ _ hrsp
  cases v with
  | symbols ws =>
    cases hbyte : yieldsNothing s.policy ws.length with
    | true =>
      exact ⟨_, { s.dec with fill := 0, step := 0, exhausted := e }, rfl,
        fun l => (if_pos hbyte).trans (hanswer .eod 0 _ l)⟩
    | false =>
      exact ⟨_, { s.dec with acc := assemble ws, fill := fillOf ws.length, step := 1, exhausted := e }, rfl,
        fun l => (if_neg (Bool.eq_false_iff.1 hbyte)).trans (hanswer .byte _ _ l)⟩
  | invalid => exact ⟨_, (s.dec.setExhausted e).faulted, rfl, fun l => hanswer .errSymbol 0 _ l⟩
  | wait ws => exact absurd rfl (hv ws)

theorem execDecRead_of_err {s : State} (herr : s.dec.err = true) :
    execDecRead s = .next (respond .errSymbol 0 s) := by
  simp [execDecRead, herr]

/-- DEC_READ gives the same answer on both inputs, changes the decoder in the same way and leaves the inputs alike. -/
theorem exec_decRead_alike {s : State} {m : List InItem} (hrsp : s.rspReady.accepts 1 = true)
    (h : AlikeInput s.cfg s.dec.exhausted s.inp m) :
    ∃ r d l' m', AlikeInput s.cfg d.exhausted l' m' ∧
      exec .decRead s = .next (((s.withInp l').withDec d).answered r) ∧
      exec .decRead (s.withInp m) = .next (((s.withInp m').withDec d).answered r) := by
  cases herr : s.dec.err with
  | true =>
    exact ⟨_, s.dec, s.inp, m, h, (execDecRead_of_err herr).trans (congrArg _ (respond_of_accepts _ _ hrsp)),
      (execDecRead_of_err (s := s.withInp m) herr).trans (congrArg _ (respond_of_accepts _ _ hrsp))⟩
  | false =>
    cases hpending : s.dec.pending with
    | true =>
      exact ⟨_, { s.dec with step := s.dec.step + 1 }, s.inp, m, h, execDecRead_of_pending hrsp herr hpending,
        execDecRead_of_pending (s := s.withInp m) hrsp herr hpending⟩
    | false =>
      obtain ⟨v, e, l', m', hv, hl, hm, halike⟩ := fetchGroup_alike h 4 []
      obtain ⟨r, d, rfl, hend⟩ := endRead_answers hv e hrsp
      refine ⟨r, d, l', m', halike, ?_, ?_⟩
      · show execDecRead s = _
        rw [execDecRead_of_not_pending herr hpending, continueRead_nil, hl, hend]
      · show execDecRead (s.withInp m) = _
        rw [execDecRead_of_not_pending (s := s.withInp m) herr hpending, continueRead_nil, endRead_withInp,
          State.withInp_cfg, State.withInp_dec, State.withInp_inp, hm, hend]

/-! ## The host's read loop (R87) -/

theorem State.calm.accepts {s : State} (hs : s.calm) : s.rspReady.accepts 1 = true := by
  obtain ⟨-, -, -, -, hrsp⟩ := hs
  rw [hrsp, Ready.always_accepts]

theorem State.calm.answered {s : State} (hs : s.calm) (l : List InItem) (d : Dec) (r : Word) :
    (((s.withInp l).withDec d).answered r).calm := by
  obtain ⟨-, hrst, hcmds, hout, hrsp⟩ := hs
  exact ⟨rfl, hrst, hcmds, hout, by simp [hrsp]⟩

/-- The result of a loop that has stored bytes before. -/
def ReadResult.prepend (bs : List Byte) (r : ReadResult) : ReadResult := { r with bytes := bs ++ r.bytes }

/-- The loop's next turn, by the answer of DEC_READ. -/
theorem decReadN_succ {s t : State} {r : Word} (hs : s.calm)
    (h : exec .decRead s = .next (t.answered r)) (hrsp : t.rsp = s.rsp) (n : Nat) :
    decReadN (n + 1) s =
      if responseCode r = ResultCode.bits .byte then (decReadN n (t.answered r)).prepend [responseByte r]
      else ⟨[], .code (responseCode r), t.answered r⟩ := by
  rw [decReadN, hostCall_of_exec hs t h hrsp]
  rfl

/-- Inputs that are alike give the loop the same bytes, the same reason to stop and the same responses. -/
theorem decReadN_alike {s : State} {m : List InItem} (h : AlikeInput s.cfg s.dec.exhausted s.inp m)
    (hs : s.calm) (n : Nat) :
    (decReadN n (s.withInp m)).bytes = (decReadN n s).bytes ∧
    (decReadN n (s.withInp m)).stop = (decReadN n s).stop ∧
    (decReadN n (s.withInp m)).state.rsp = (decReadN n s).state.rsp := by
  induction n generalizing s m with
  | zero => exact ⟨rfl, rfl, rfl⟩
  | succ n ih =>
    obtain ⟨r, d, l', m', halike, hl, hm⟩ := exec_decRead_alike hs.accepts h
    rw [decReadN_succ hs hl rfl, decReadN_succ (s := s.withInp m) hs hm rfl]
    split
    · obtain ⟨hbytes, hstop, hresponses⟩ :=
        ih (s := ((s.withInp l').withDec d).answered r) halike (hs.answered l' d r)
      exact ⟨congrArg (responseByte r :: ·) hbytes, hstop, hresponses⟩
    · exact ⟨rfl, rfl, rfl⟩

/-- Settles O57: the two inputs are alike. -/
theorem whitespaceLaw : Obligations.WhitespaceLaw := by
  rintro n s u a b stop rest rest' hs hstop hinp hab rfl
  exact decReadN_alike (.inr ⟨a, b, stop, rest, rest', hstop, hab, hinp, rfl⟩) hs n

end Sys2Proof.Machine

/-!
PROOF. The round-trip law: a fresh decoder reads an encode stream back, group by group (spec 42_decoder.md R160;
70_reset_and_hazards.md R248).
-/

namespace Sys2Proof.Machine

/-! ## The decoder's class of the encoder's symbols (R248) -/

/-- The fixed symbols are letters and digits: neither skip bytes nor the padding byte 0x3D (R100). -/
theorem encodeSymbol_fixed_reachesLookup (c : Cfg) {v : SymVal} (hv : v.toNat < 62) :
    0x20#8 < encodeSymbol c v ∧ encodeSymbol c v ≠ 0x3D#8 := by
  rcases (by omega : v.toNat ≤ 25 ∨ (26 ≤ v.toNat ∧ v.toNat ≤ 51) ∨ (52 ≤ v.toNat ∧ v.toNat ≤ 61)) with
    h | ⟨h₁, h₂⟩ | ⟨h₁, h₂⟩
  · have hb := encodeSymbol_toNat_upper c h
    bv_omega
  · have hb := encodeSymbol_toNat_lower c h₁ h₂
    bv_omega
  · have hb := encodeSymbol_toNat_digit c h₁ h₂
    bv_omega

/-- Under the round-trip conditions every symbol of the encoder is a symbol to the decoder (R248). -/
theorem classify_encodeSymbol_of_roundTrips {c : Cfg} (hc : c.roundTrips) (v : SymVal) :
    classify c (encodeSymbol c v) = .sym v := by
  obtain ⟨hdistinct, hskip₆₂, hskip₆₃, heq₆₂, heq₆₃, -, -, hpad⟩ := hc
  obtain ⟨hskip, heq⟩ : 0x20#8 < encodeSymbol c v ∧ encodeSymbol c v ≠ 0x3D#8 := by
    rcases symVal_cases v with hv | rfl | rfl
    · exact encodeSymbol_fixed_reachesLookup c hv
    · exact ⟨hskip₆₂, heq₆₂⟩
    · exact ⟨hskip₆₃, heq₆₃⟩
  refine (classify_encodeSymbol_iff hdistinct v).2 ⟨hskip, heq, ?_⟩
  obtain hzero | hpad := hpad
  · rw [hzero]
    bv_omega
  · exact hpad v

/-! ## Symbols with skip bytes between them, as a run -/

/-- Symbols that are left once the skip bytes are dropped stand in the input as a run. -/
theorem exists_symRun {c : Cfg} (hc : ∀ v, classify c (encodeSymbol c v) = .sym v) {vs : List SymVal}
    {noisy ys : List Byte} (h : withoutSkips noisy = vs.map (encodeSymbol c) ++ ys) :
    ∃ g tail, SymRun.valid c g ∧ SymRun.values g = vs ∧ inBytes noisy = SymRun.items g ++ inBytes tail ∧
      withoutSkips tail = ys := by
  induction vs generalizing noisy with
  | nil => exact ⟨[], noisy, nofun, rfl, rfl, h⟩
  | cons v vs ih =>
    obtain ⟨gap, rest, rfl, hgap, -, hrest⟩ := exists_gap_of_withoutSkips_cons h
    obtain ⟨g, tail, hvalid, hvalues, hitems, htail⟩ := ih hrest
    refine ⟨(gap, encodeSymbol c v, v) :: g, tail, ?_, ?_, ?_, htail⟩
    · exact List.forall_mem_cons.2 ⟨⟨fun b hb => by simpa [isSkip] using hgap b hb, hc v⟩, hvalid⟩
    · exact congrArg (v :: ·) hvalues
    · rw [SymRun.items_cons, ← hitems]
      simp [inBytes]

/-- Where only padding bytes are left, the first of them ends the data, or END does (R151). -/
theorem exists_stop {c : Cfg} {tail : List Byte} (h : ∀ x ∈ withoutSkips tail, classify c x = .pad)
    (rest : List InItem) :
    ∃ gap stop rest', inBytes tail ++ .endOfStream :: rest = inBytes gap ++ stop :: rest' ∧
      (∀ b ∈ gap, isSkip b = true) ∧ endsData c stop := by
  cases htail : withoutSkips tail with
  | nil => exact ⟨tail, .endOfStream, rest, rfl, forall_isSkip_of_withoutSkips_nil htail, .inl rfl⟩
  | cons x xs =>
    obtain ⟨gap, pads, rfl, hgap, -, -⟩ := exists_gap_of_withoutSkips_cons htail
    exact ⟨gap, .byte x, _, inBytes_append_cons _ _ _ _, hgap, .inr ⟨x, rfl, h x (by simp [htail])⟩⟩

theorem withoutSkips_append (a b : List Byte) : withoutSkips (a ++ b) = withoutSkips a ++ withoutSkips b :=
  List.filter_append _ _

theorem withoutSkips_symbols {c : Cfg} (hc : ∀ v, classify c (encodeSymbol c v) = .sym v) (vs : List SymVal) :
    withoutSkips (vs.map (encodeSymbol c)) = vs.map (encodeSymbol c) := by
  refine List.filter_eq_self.2 (List.forall_mem_map.2 fun v _ => ?_)
  rw [((classify_sym_iff _ _ _).1 (hc v)).1]
  rfl

/-! ## The bytes of one group (R56, R57) -/

@[simp] theorem byte3_ofBytes (b1 b2 b3 : Byte) : byte3 (ofBytes b1 b2 b3) = b3 := by
  apply BitVec.eq_of_toNat_eq
  rw [byte3, extractLsb'_toNat_eq_mod, ofBytes_toNat]
  omega

theorem ofSyms_syms (a : Acc) : ofSyms (sym1 a) (sym2 a) (sym3 a) (sym4 a) = a := by
  have ha := a.isLt
  apply BitVec.eq_of_toNat_eq
  simp only [ofSyms_toNat, sym1, sym2, sym3, sym4, extractLsb'_toNat_eq_mod]
  omega

/-- The bits of a group of bytes, in symbols. -/
theorem ofSyms_bytes (b1 b2 b3 : Byte) :
    ofSyms (b1.extractLsb' 2 6) (b1.extractLsb' 0 2 ++ b2.extractLsb' 4 4) (b2.extractLsb' 0 4 ++ b3.extractLsb' 6 2)
      (b3.extractLsb' 0 6) = ofBytes b1 b2 b3 := by
  rw [← sym1_ofBytes b1 b2 b3, ← sym2_ofBytes b1 b2 b3, ← sym3_ofBytes b1 b2 b3, ← sym4_ofBytes b1 b2 b3,
    ofSyms_syms]

/-! ## Bytes the host reads (R87) -/

/-- The loop stores the bytes `bs` from `s` on and comes to `t`. -/
structure Reads (s : State) (bs : List Byte) (t : State) : Prop where
  loop : ∀ n, decReadN (bs.length + n) s = (decReadN n t).prepend bs
  calm : t.calm
  cfg : t.cfg = s.cfg

theorem Reads.refl {s : State} (hs : s.calm) : Reads s [] s :=
  ⟨fun n => congrArg (decReadN · s) (Nat.zero_add n), hs, rfl⟩

theorem Reads.trans {s t u : State} {bs cs : List Byte} (h : Reads s bs t) (h' : Reads t cs u) :
    Reads s (bs ++ cs) u := by
  refine ⟨fun n => ?_, h'.calm, h'.cfg.trans h.cfg⟩
  rw [List.length_append, Nat.add_assoc, h.loop, h'.loop]
  simp [ReadResult.prepend]

/-- An answer BYTE is one byte read. -/
theorem reads_one {s : State} {l : List InItem} {d : Dec} {b : Byte} (hs : s.calm)
    (h : exec .decRead s = .next (State.answered { s with inp := l, dec := d } (0x100000#24 ++ b))) :
    Reads s [b] (State.answered { s with inp := l, dec := d } (0x100000#24 ++ b)) := by
  refine ⟨fun n => ?_, hs.answered l d _, rfl⟩
  have hturn := decReadN_succ hs h rfl n
  rw [← responseWord_byte, responseCode_responseWord, if_pos rfl, responseByte_responseWord] at hturn
  rw [List.length_singleton, Nat.add_comm, hturn, responseWord_byte]

theorem reads_pending {s : State} (hs : s.calm) (herr : s.dec.err = false) (hpending : s.dec.pending = true) :
    ∃ t, Reads s [if s.dec.step = 1 then byte2 s.dec.acc else byte3 s.dec.acc] t ∧ t.inp = s.inp ∧
      t.dec = { s.dec with step := s.dec.step + 1 } :=
  ⟨_, reads_one hs (execDecRead_of_pending hs.accepts herr hpending), rfl, rfl⟩

/-- Two symbols or more are read as the bytes their number makes of the group (R152, R153). -/
theorem reads_group {s : State} {ws : List SymVal} {e : Bool} {rest : List InItem} {b1 b2 b3 : Byte} (hs : s.calm)
    (hwants : s.dec.wantsInput = true) (hfetch : fetchGroup s.cfg 4 [] false s.inp = ⟨.symbols ws, e, rest⟩)
    (hlen : ws.length = 2 ∨ ws.length = 3 ∨ ws.length = 4) (hacc : assemble ws = ofBytes b1 b2 b3) :
    ∃ t, Reads s ([b1, b2, b3].take (ws.length - 1)) t ∧ t.inp = rest ∧ t.dec.err = false ∧
      t.dec.pending = false ∧ t.dec.exhausted = e := by
  obtain ⟨herr, hpending, hexh⟩ := s.dec.wantsInput_iff.1 hwants
  have hfirst := reads_one hs (execDecRead_of_byte hs.accepts herr hpending (by rw [hexh, hfetch])
    (yieldsNothing_of_two_le _ (by omega)))
  rw [hacc, byte1_ofBytes] at hfirst
  obtain hlen | hlen | hlen := hlen <;> rw [hlen] at hfirst ⊢
  · exact ⟨_, hfirst, rfl, rfl, rfl, rfl⟩
  · obtain ⟨t, hsecond, hinp, hdec⟩ := reads_pending hfirst.calm rfl rfl
    refine ⟨t, ?_, hinp, ?_⟩
    · simpa using hfirst.trans hsecond
    · rw [hdec]
      exact ⟨rfl, rfl, rfl⟩
  · obtain ⟨t, hsecond, hinp, hdec⟩ := reads_pending hfirst.calm rfl rfl
    obtain ⟨u, hthird, hinp', hdec'⟩ := reads_pending hsecond.calm (by rw [hdec]; rfl) (by rw [hdec]; rfl)
    rw [hdec] at hthird hdec'
    refine ⟨u, ?_, hinp'.trans hinp, ?_⟩
    · simpa using hfirst.trans (hsecond.trans hthird)
    · rw [hdec']
      exact ⟨rfl, rfl, rfl⟩

/-! ## Streams that are read back (R160) -/

/-- DEC_READ answers EOD. -/
def AnswersEod (s : State) : Prop :=
  ∃ d l, exec .decRead s = .next (State.answered { s with inp := l, dec := d } 0x20000000#32)

/-- However skip bytes stand in it, the body with END behind it is read from a fresh decoder as the bytes, then EOD. -/
def DecodesTo (c : Cfg) (body bs : List Byte) : Prop :=
  ∀ u noisy rest, u.calm → u.cfg = c → u.dec.wantsInput = true → withoutSkips noisy = withoutSkips body →
    u.inp = inBytes noisy ++ .endOfStream :: rest → ∃ t, Reads u bs t ∧ AnswersEod t

/-- Four symbols before a body are the three bytes before its bytes; a line break between them is skipped. -/
theorem DecodesTo.group {c : Cfg} (hc : ∀ v, classify c (encodeSymbol c v) = .sym v) {body bs : List Byte}
    (h : DecodesTo c body bs) {vs : List SymVal} {b1 b2 b3 : Byte} (hlen : vs.length = 4)
    (hacc : assemble vs = ofBytes b1 b2 b3) {br : List Byte} (hbr : withoutSkips br = []) :
    DecodesTo c (vs.map (encodeSymbol c) ++ br ++ body) (b1 :: b2 :: b3 :: bs) := by
  rintro u noisy rest hu rfl hwants hnoisy hinp
  rw [withoutSkips_append, withoutSkips_append, withoutSkips_symbols hc, hbr, List.append_nil] at hnoisy
  obtain ⟨g, tail, hvalid, rfl, hitems, htail⟩ := exists_symRun hc hnoisy
  have hfetch : fetchGroup u.cfg 4 [] false u.inp =
      ⟨.symbols (SymRun.values g), false, inBytes tail ++ .endOfStream :: rest⟩ := by
    rw [hinp, hitems, List.append_assoc, fetchGroup_full hvalid hlen]
  obtain ⟨t, hread, hrest, herr, hpending, hexh⟩ := reads_group hu hwants hfetch (.inr (.inr hlen)) hacc
  rw [hlen] at hread
  obtain ⟨t', hread', heod⟩ := h t tail rest hread.calm hread.cfg
    (t.dec.wantsInput_iff.2 ⟨herr, hpending, hexh⟩) htail hrest
  exact ⟨t', hread.trans hread', heod⟩

/-- Two or three symbols, then padding or nothing, are the one or two bytes of the tail. -/
theorem decodesTo_tail {c : Cfg} (hc : ∀ v, classify c (encodeSymbol c v) = .sym v) {vs : List SymVal}
    {b1 b2 b3 : Byte} (hlen : vs.length = 2 ∨ vs.length = 3) (hacc : assemble vs = ofBytes b1 b2 b3)
    {pads : List Byte} (hpads : ∀ x ∈ withoutSkips pads, classify c x = .pad) :
    DecodesTo c (vs.map (encodeSymbol c) ++ pads) ([b1, b2, b3].take (vs.length - 1)) := by
  rintro u noisy rest hu rfl hwants hnoisy hinp
  rw [withoutSkips_append, withoutSkips_symbols hc] at hnoisy
  obtain ⟨g, tail, hvalid, rfl, hitems, htail⟩ := exists_symRun hc hnoisy
  obtain ⟨gap, stop, rest', hstop, hgap, hends⟩ := exists_stop (htail ▸ hpads) rest
  have hfetch : fetchGroup u.cfg 4 [] false u.inp = ⟨.symbols (SymRun.values g), true, rest'⟩ := by
    rw [hinp, hitems, List.append_assoc, hstop, ← List.append_assoc,
      fetchGroup_partial hvalid (by omega) hgap hends]
  obtain ⟨t, hread, -, herr, hpending, hexh⟩ :=
    reads_group hu hwants hfetch (hlen.imp_right .inl) hacc
  exact ⟨t, hread, _, _, execDecRead_of_exhausted hread.calm.accepts herr hpending hexh⟩

/-- Nothing but END is no byte. -/
theorem decodesTo_nil (c : Cfg) : DecodesTo c [] [] := by
  rintro u noisy rest hu rfl hwants hnoisy hinp
  obtain ⟨herr, hpending, hexh⟩ := u.dec.wantsInput_iff.1 hwants
  have hskips := forall_isSkip_of_withoutSkips_nil (hnoisy : withoutSkips noisy = [])
  have hfetch : fetchGroup u.cfg 4 [] u.dec.exhausted u.inp = ⟨.symbols [], true, rest⟩ := by
    rw [hexh, hinp]
    exact fetchGroup_partial (g := []) nofun (by decide) hskips (.inl rfl) rest
  exact ⟨u, .refl hu, _, _, execDecRead_of_no_byte hu.accepts herr hpending hfetch rfl⟩

/-- A line break is CR LF or nothing: skip bytes. -/
theorem breakAfter_eq_outBytes (c : Cfg) (k : Nat) : ∃ br, breakAfter c k = outBytes br ∧ withoutSkips br = [] := by
  unfold breakAfter
  split
  · exact ⟨[0x0D, 0x0A], rfl, by decide⟩
  · exact ⟨[], rfl, rfl⟩

/-- The encoder's padding is padding to the decoder, unless it is a skip byte (R150). -/
theorem padItems_eq_outBytes (c : Cfg) (n : Nat) :
    ∃ pads, padItems c n = outBytes pads ∧ ∀ x ∈ withoutSkips pads, classify c x = .pad := by
  unfold padItems
  split
  · exact ⟨[], rfl, nofun⟩
  · next hpad =>
    refine ⟨List.replicate n c.pad, (List.map_replicate ..).symm, fun x hx => ?_⟩
    obtain ⟨hmem, hskip⟩ := List.mem_filter.1 hx
    obtain rfl := List.eq_of_mem_replicate hmem
    exact (classify_pad_iff c _).2 ⟨by simpa using hskip, (isPad_iff c _).2 (.inr ⟨hpad, rfl⟩)⟩

/-- The wire format of the bytes is read back as the bytes. -/
theorem wire_decodes {c : Cfg} (hc : c.roundTrips) (k : Nat) (bs : List Byte) :
    ∃ body, wire c k bs = outBytes body ∧ DecodesTo c body bs := by
  have hsym := classify_encodeSymbol_of_roundTrips hc
  induction k, bs using wire.induct with
  | case1 k b1 b2 b3 rest ih =>
    obtain ⟨body, hwire, hbody⟩ := ih
    obtain ⟨br, hbreak, hskips⟩ := breakAfter_eq_outBytes c (k + 1)
    refine ⟨_, ?_, hbody.group hsym (vs := [b1.extractLsb' 2 6, b1.extractLsb' 0 2 ++ b2.extractLsb' 4 4,
      b2.extractLsb' 0 4 ++ b3.extractLsb' 6 2, b3.extractLsb' 0 6]) rfl (ofSyms_bytes b1 b2 b3) hskips⟩
    rw [wire, hwire, hbreak]
    simp [outBytes, symItem]
  | case2 k b1 b2 =>
    obtain ⟨pads, hpad, hpads⟩ := padItems_eq_outBytes c 1
    refine ⟨_, ?_, decodesTo_tail hsym (vs := [b1.extractLsb' 2 6, b1.extractLsb' 0 2 ++ b2.extractLsb' 4 4,
      b2.extractLsb' 0 4 ++ 0#2]) (.inr rfl) (ofSyms_bytes b1 b2 0) hpads⟩
    rw [wire, hpad]
    simp [outBytes, symItem]
  | case3 k b1 =>
    obtain ⟨pads, hpad, hpads⟩ := padItems_eq_outBytes c 2
    refine ⟨_, ?_, decodesTo_tail hsym (vs := [b1.extractLsb' 2 6, b1.extractLsb' 0 2 ++ 0#4]) (.inl rfl)
      (ofSyms_bytes b1 0 0) hpads⟩
    rw [wire, hpad]
    simp [outBytes, symItem]
  | case4 k => exact ⟨[], rfl, decodesTo_nil c⟩

/-- Settles O58: the stream is the wire format, which is read back. -/
theorem roundTripLaw : Obligations.RoundTripLaw := by
  intro bs s hs henc hc
  obtain ⟨t, hrun, ht⟩ := encStream_streamed bs hs henc
  obtain ⟨body, hwire, hdecodes⟩ := wire_decodes hc 0 bs
  refine ⟨t, body, hrun, by rw [ht.out, hwire, List.append_assoc], fun u noisy rest hu hcfg hdec hnoisy hinp => ?_⟩
  obtain ⟨v, hread, d, l, heod⟩ := hdecodes u noisy rest hu hcfg (by rw [hdec]; rfl) hnoisy hinp
  have hlast : decReadN 1 v = ⟨[], .code (ResultCode.bits .eod), _⟩ := decReadN_succ hread.calm heod rfl 0
  rw [hread.loop, hlast]
  exact ⟨List.append_nil bs, rfl⟩

end Sys2Proof.Machine

/-!
PROOF. The control commands: their words, the data of the registers they answer with, and what they write; the
configuration is theirs alone to change (spec 10_state.md R37 to R43; 43_control.md R190 to R194).
-/

namespace Sys2Proof.Machine

/-! ## Words with an operand (R73, R76) -/

/-- The word of an operand of `k` bits is the operand behind the bits `p` that the word with operand 0 begins with. -/
theorem commandWord_toNat_eq_append {n k : Nat} (hk : k ≤ 24) {op idx : BitVec 4} {p : BitVec n}
    (hp : p.toNat * 2 ^ k = (commandWord op idx 0).toNat) (x : BitVec k) :
    (commandWord op idx (x.setWidth 24)).toNat = (p ++ x).toNat := by
  rw [toNat_append_eq_add, hp, commandWord_toNat, commandWord_toNat, BitVec.toNat_setWidth_of_le hk]
  simp

theorem encode_cfgWriteSym62 (v : Byte) : encode (.cfgWriteSym62 v) = 0x600000#24 ++ v :=
  BitVec.eq_of_toNat_eq (commandWord_toNat_eq_append (by decide) (by decide) v)

theorem encode_cfgWriteSym63 (v : Byte) : encode (.cfgWriteSym63 v) = 0x610000#24 ++ v :=
  BitVec.eq_of_toNat_eq (commandWord_toNat_eq_append (by decide) (by decide) v)

theorem encode_cfgWritePad (v : Byte) : encode (.cfgWritePad v) = 0x620000#24 ++ v :=
  BitVec.eq_of_toNat_eq (commandWord_toNat_eq_append (by decide) (by decide) v)

theorem encode_cfgWriteLineLen (v : LineLen) : encode (.cfgWriteLineLen v) = 0x6300#16 ++ v :=
  BitVec.eq_of_toNat_eq (commandWord_toNat_eq_append (by decide) (by decide) v)

theorem encode_srst (m : BitVec 3) : encode (.srst m) = 0x10000000#29 ++ m :=
  BitVec.eq_of_toNat_eq (commandWord_toNat_eq_append (by decide) (by decide) m)

/-! ## CFG_WRITE and CFG_READ (R191, R192) -/

/-- A CFG_WRITE writes the configuration and answers OK 0 (R191). -/
theorem configure_of_accepts (c : Cfg) {s : State} (hrsp : s.rspReady.accepts 1 = true) :
    configure c s = .next (State.answered { s with cfg := c } 0#32) :=
  congrArg _ (respond_of_accepts (s := s.withCfg c) _ _ hrsp)

/-- The response OK is its data, zero-extended (R74, R75): it has the fields of a command word with OP and IDX 0. -/
theorem responseWord_ok (data : Acc) : responseWord .ok data = data.setWidth 32 := by
  apply BitVec.eq_of_toNat_eq
  rw [BitVec.toNat_setWidth_of_le (by decide)]
  exact (commandWord_toNat 0#4 0#4 data).trans (by simp)

/-- CFG_READ answers OK with its register's read data. -/
theorem exec_cfgReadOf_of_accepts (r : Reg) {s : State} (hrsp : s.rspReady.accepts 1 = true) :
    exec (cfgReadOf r) s = .next (s.answered ((readReg s r).setWidth 32)) := by
  rw [exec_cfgReadOf, respond_of_accepts _ _ hrsp, responseWord_ok]

/-- A register of at most 24 bits is answered zero-extended. -/
theorem exec_cfgReadOf_of_field {n : Nat} (hn : n ≤ 24) (x : BitVec n) {r : Reg} {s : State}
    (hrsp : s.rspReady.accepts 1 = true) (hread : readReg s r = x.setWidth 24) :
    exec (cfgReadOf r) s = .next (s.answered (x.setWidth 32)) := by
  rw [exec_cfgReadOf_of_accepts r hrsp, hread, BitVec.setWidth_setWidth (by omega)]

/-! ## The statements about one command -/

/-- Settles O13: the response OK 0 to an unchanged state. -/
theorem nopOnlyAnswersOk : Obligations.NopOnlyAnswersOk :=
  ⟨by decide, fun _ _ => raisesIllegal_of_malformed, fun _ hrsp => congrArg _ (respond_of_accepts _ _ hrsp)⟩

/-- Settles O14: the four words, and the configuration each of the four commands writes. -/
theorem cfgWriteStoresValue : Obligations.CfgWriteStoresValue := by
  refine ⟨fun _ _ => raisesIllegal_of_malformed,
    fun v => ⟨encode_cfgWriteSym62 v, encode_cfgWriteSym63 v, encode_cfgWritePad v⟩, encode_cfgWriteLineLen,
    fun s hrsp => ⟨fun v => ?_, fun v => ?_, fun v => ?_, fun v => ?_⟩⟩
  all_goals exact configure_of_accepts _ hrsp

/-- Settles O15: the ten words, and the width of each register's read data. -/
theorem cfgReadAnswersRegister : Obligations.CfgReadAnswersRegister := by
  refine ⟨fun _ _ => raisesIllegal_of_malformed, by decide, fun s hrsp => ?_⟩
  have hthresh := exec_cfgReadOf_of_field (r := .lineThresh) (by decide) (ceil4 s.cfg.lineLen) hrsp rfl
  rw [← BitVec.ofNat_toNat, ceil4_toNat] at hthresh
  exact ⟨exec_cfgReadOf_of_field (r := .sym62) (by decide) _ hrsp rfl,
    exec_cfgReadOf_of_field (r := .sym63) (by decide) _ hrsp rfl,
    exec_cfgReadOf_of_field (r := .pad) (by decide) _ hrsp rfl,
    exec_cfgReadOf_of_field (r := .lineLen) (by decide) _ hrsp rfl,
    hthresh,
    exec_cfgReadOf_of_field (r := .encState) (by decide) _ hrsp rfl,
    exec_cfgReadOf_of_accepts .encAcc hrsp,
    exec_cfgReadOf_of_field (r := .decState) (by decide) _ hrsp rfl,
    exec_cfgReadOf_of_accepts .decAcc hrsp,
    exec_cfgReadOf_of_accepts .id hrsp⟩

/-- Settles O16: each block of the state that SRST leaves is by definition its reset values or what it was. -/
theorem srstResetsSelectedBlocks : Obligations.SrstResetsSelectedBlocks :=
  ⟨fun _ _ => raisesIllegal_of_malformed, encode_srst, fun m s hrsp =>
    ⟨softReset m s, congrArg _ (respond_of_accepts (s := softReset m s) _ _ hrsp), rfl,
      softReset_enc m s, softReset_dec m s, softReset_cfg m s⟩⟩

/-! ## The configuration changes by command alone (R194) -/

theorem DecoderOutcome.cfg {s t : State} (h : DecoderOutcome s t) : t.cfg = s.cfg := by
  obtain ⟨d, l, -, hend⟩ := h
  rw [hend.frame]
  rfl

theorem exec_encoder_cfg {i : Instr} (hi : (∃ b, i = .encWrite b) ∨ i = .encFlush ∨ i = .encFinalize) {s t : State}
    (h : exec i s = .next t) : t.cfg = s.cfg := by
  obtain ⟨items, e, -, rfl⟩ := exec_encoder_eq hi h
  exact emitThenOk_cfg items (s.withEnc e)

/-- Of all commands only CFG_WRITE, and SRST with the configuration bit, write the configuration (R191, R193). -/
theorem exec_changes_cfg {i : Instr} {s t : State} (h : exec i s = .next t) (hne : t.cfg ≠ s.cfg) :
    (∃ v, i = .cfgWriteSym62 v ∨ i = .cfgWriteSym63 v ∨ i = .cfgWritePad v) ∨ (∃ v, i = .cfgWriteLineLen v) ∨
      ∃ m, i = .srst m ∧ m.getLsbD 2 = true := by
  cases i
  case cfgWriteSym62 v => exact .inl ⟨v, .inl rfl⟩
  case cfgWriteSym63 v => exact .inl ⟨v, .inr (.inl rfl)⟩
  case cfgWritePad v => exact .inl ⟨v, .inr (.inr rfl)⟩
  case cfgWriteLineLen v => exact .inr (.inl ⟨v, rfl⟩)
  case srst m =>
    cases h
    rw [respond_cfg, softReset_cfg] at hne
    exact .inr (.inr ⟨m, rfl, by_contra fun hbit => hne (if_neg hbit)⟩)
  case encWrite b => exact absurd (exec_encoder_cfg (.inl ⟨b, rfl⟩) h) hne
  case encFlush => exact absurd (exec_encoder_cfg (.inr (.inl rfl)) h) hne
  case encFinalize => exact absurd (exec_encoder_cfg (.inr (.inr rfl)) h) hne
  case decRead => exact absurd (exec_decoderOutcome (.inl rfl) h).cfg hne
  case decHasMore => exact absurd (exec_decoderOutcome (.inr rfl) h).cfg hne
  -- NOP and CFG_READ answer from an unchanged state.
  all_goals cases h; exact absurd (respond_cfg _ _ _) hne

/-- Settles O17: no wait, no response and no word that raises Illegal writes the configuration. -/
theorem configurationChangesOnlyByCommand : Obligations.ConfigurationChangesOnlyByCommand := by
  intro s t h hne
  obtain ⟨hrst, -⟩ | ⟨-, -, -, rfl⟩ | ⟨w, rest, i, ha, hd, hexec⟩ | ⟨w, rest, e, -, -, rfl⟩ | ⟨syms, -, -, rfl⟩ |
    ⟨-, -, rfl⟩ | ⟨items, -, -, rfl⟩ | ⟨w, -, -, rfl⟩ := step_cases h
  · exact .inl hrst
  · exact absurd rfl hne
  · exact .inr ⟨w, rest, i, ha, hd, exec_changes_cfg (s := { s with cmds := rest }) hexec hne⟩
  · exact absurd (respond_cfg _ _ _) hne
  · exact absurd (continueRead_decoderOutcome syms s).cfg hne
  · exact absurd (continuePeek_decoderOutcome s).cfg hne
  · exact absurd (emitThenOk_cfg items s) hne
  · exact absurd (sendResponse_cfg w s) hne

end Sys2Proof.Machine

/-!
PROOF. Exceptions: every command and every step answers, what raises a symbol fault, and what runs while one is recorded
(spec 60_exceptions.md R210 to R213).
-/

namespace Sys2Proof.Machine

/-! ## No trap (R210) -/

theorem step_of_rst {s : State} (hrst : s.rst = true) : step s = .next (resetEdge s) := by
  simp [step, hrst]

theorem exec_decRead_answers (s : State) : ∃ t, exec .decRead s = .next t := by
  cases herr : s.dec.err with
  | true => exact ⟨_, execDecRead_of_err herr⟩
  | false =>
    cases hpending : s.dec.pending with
    | true => exact ⟨returnPending s, by simp [exec, execDecRead, herr, hpending]⟩
    | false => exact ⟨_, execDecRead_of_not_pending herr hpending⟩

theorem exec_decHasMore_answers (s : State) : ∃ t, exec .decHasMore s = .next t := by
  cases hwants : s.dec.wantsInput with
  | true => exact ⟨_, execDecHasMore_of_wantsInput hwants⟩
  | false =>
    obtain ⟨rc, data, hanswer⟩ := execDecHasMore_of_not_wantsInput hwants
    exact ⟨_, hanswer s rfl⟩

theorem exec_answers (i : Instr) (s : State) : ∃ t, exec i s = .next t := by
  cases i
  case encWrite b => exact ⟨_, exec_encWrite b s⟩
  case decRead => exact exec_decRead_answers s
  case decHasMore => exact exec_decHasMore_answers s
  -- The other commands are one response, or items and then the response.
  all_goals exact ⟨_, rfl⟩

theorem step_answers_of_accepting {s : State} {w : Word} {rest : List Word} (ha : s.accepting w rest) :
    ∃ t, step s = .next t := by
  cases hd : decode w with
  | ok i =>
    rw [step_of_accepting ha hd]
    exact exec_answers i _
  | error e => exact ⟨_, step_of_accepting_error ha hd⟩

theorem step_answers (s : State) : ∃ t, step s = .next t := by
  cases hrst : s.rst with
  | true => exact ⟨_, step_of_rst hrst⟩
  | false =>
    cases hp : s.progress with
    | idle =>
      cases hc : s.cmds with
      | nil => exact ⟨_, step_of_no_command hrst hp hc⟩
      | cons w rest => exact step_answers_of_accepting ⟨hrst, hp, hc⟩
    | fetch syms => exact ⟨_, step_of_fetch hrst hp⟩
    | peek => exact ⟨_, step_of_peek hrst hp⟩
    | emit items => exact ⟨_, step_of_emit hrst hp⟩
    | respond w => exact ⟨_, step_of_respond hrst hp⟩

/-- Settles O3: commands by their constructor, steps by the pin and the command in progress. -/
theorem everyCommandAnswersNext : Obligations.EveryCommandAnswersNext := ⟨exec_answers, step_answers⟩

/-! ## DEC_READ that takes an invalid byte (R212) -/

/-- Fewer than four symbols and an invalid byte behind them: the fetch ends with the byte taken (R151, R153). -/
theorem fetchGroup_invalid {c : Cfg} {g : SymRun} (hg : SymRun.valid c g) (hlen : List.length g < 4)
    {gap : List Byte} (hgap : ∀ b ∈ gap, isSkip b = true) {bad : Byte} (hbad : classify c bad = .invalid)
    (rest : List InItem) :
    fetchGroup c 4 [] false (SymRun.items g ++ inBytes gap ++ .byte bad :: rest) = ⟨.invalid, false, rest⟩ := by
  obtain ⟨todo, htodo⟩ : ∃ todo, 4 = todo + 1 + List.length g := ⟨3 - List.length g, by omega⟩
  rw [htodo, List.append_assoc, fetchGroup_run c hg, fetchGroup, nextSymbol_fresh, takeSymbol_skips c gap _ hgap,
    takeSymbol_invalid c bad rest hbad]

/-- A group fetch that meets an invalid byte: the fault is recorded and answered (R212). -/
theorem execDecRead_of_invalid {s : State} {rest : List InItem} (hrsp : s.rspReady.accepts 1 = true)
    (herr : s.dec.err = false) (hpending : s.dec.pending = false)
    (hfetch : fetchGroup s.cfg 4 [] s.dec.exhausted s.inp = ⟨.invalid, s.dec.exhausted, rest⟩) :
    execDecRead s = .next (State.answered
      { s with inp := rest, dec := { s.dec with fill := 0, step := 0, err := true } } 0x90000000#32) := by
  rw [execDecRead_of_not_pending herr hpending, continueRead_nil, hfetch]
  exact congrArg _ (respond_of_accepts _ _ hrsp)

/-- Settles O33: the byte's class is the last of R150's tests. -/
theorem decReadSymbolFault : Obligations.DecReadSymbolFault := by
  intro s g gap bad rest hrsp herr hfill hexh hvalid hlen hgap hskip heq hpad hnone hinp
  have hbad : classify s.cfg bad = .invalid :=
    (classify_invalid_iff s.cfg bad).2
      ⟨(isSkip_eq_false_iff bad).2 hskip, (isPad_eq_false_iff s.cfg bad).2 ⟨heq, hpad⟩, hnone⟩
  refine execDecRead_of_invalid hrsp herr (s.dec.pending_eq_false_iff.2 hfill) ?_
  rw [hexh, hinp, fetchGroup_invalid hvalid hlen (fun b hb => (isSkip_iff b).2 (hgap b hb)) hbad]

/-! ## What changes the error flag (R35, R212, R213) -/

@[simp] theorem groupResult_err (vs : List SymVal) (s : State) : (groupResult vs s).dec.err = s.dec.err := by
  rcases groupResult_cases vs s with h | h <;> simp [h]

/-- DEC_READ's group fetch leaves the flag as it was, or sets it at an invalid byte. -/
theorem continueRead_err (vs : List SymVal) (s : State) :
    (continueRead vs s).dec.err = s.dec.err ∨ (continueRead vs s).dec.err = true := by
  simp only [continueRead]
  split
  · exact .inl (groupResult_err _ _)
  · exact .inr (by simp [raise_symbolFault])
  · exact .inl rfl

@[simp] theorem continuePeek_err (s : State) : (continuePeek s).dec.err = s.dec.err := by
  rcases continuePeek_cases s with h | h | h <;> simp [h]

theorem execDecRead_err {s t : State} (h : execDecRead s = .next t) :
    t.dec.err = s.dec.err ∨ t.dec.err = true := by
  obtain ⟨-, rfl⟩ | ⟨-, -, rfl⟩ | ⟨-, -, rfl⟩ := execDecRead_cases h
  · exact .inl (by simp)
  · exact .inl (by simp [returnPending])
  · exact continueRead_err [] s

theorem execDecHasMore_err {s t : State} (h : execDecHasMore s = .next t) : t.dec.err = s.dec.err := by
  obtain ⟨rc, data, rfl⟩ | ⟨-, rfl⟩ := execDecHasMore_cases h <;> simp

/-- Of all commands DEC_READ alone sets the flag and SRST with the decoder bit alone clears it. -/
theorem exec_err {i : Instr} {s t : State} (h : exec i s = .next t) :
    t.dec.err = s.dec.err ∨ (t.dec.err = true ∧ i = .decRead) ∨
      (t.dec.err = false ∧ ∃ m, i = .srst m ∧ m.getLsbD 1 = true) := by
  by_cases hread : i = .decRead
  · subst hread
    exact (execDecRead_err h).imp_right fun hset => .inl ⟨hset, rfl⟩
  by_cases hmore : i = .decHasMore
  · subst hmore
    exact .inl (execDecHasMore_err h)
  by_cases hsrst : ∃ m, i = .srst m
  · obtain ⟨m, rfl⟩ := hsrst
    cases h
    rw [respond_dec, softReset_dec]
    split
    · next hbit => exact .inr (.inr ⟨rfl, m, rfl, hbit⟩)
    · exact .inl rfl
  · exact .inl (by rw [exec_dec_of_not_decoder hread hmore (not_exists.1 hsrst) h])

/-- Everything a step can do to the flag: leave it, set it in a DEC_READ, or clear it by reset or SRST. -/
theorem step_err {s t : State} (h : step s = .next t) :
    t.dec.err = s.dec.err ∨
    (t.dec.err = true ∧ s.rst = false ∧
      ((∃ syms, s.progress = .fetch syms) ∨ ∃ w rest, s.accepting w rest ∧ decode w = .ok .decRead)) ∨
    (t.dec.err = false ∧
      (s.rst = true ∨ ∃ w rest m, s.accepting w rest ∧ decode w = .ok (.srst m) ∧ m.getLsbD 1 = true)) := by
  obtain ⟨hrst, rfl⟩ | ⟨-, -, -, rfl⟩ | ⟨w, rest, i, ha, hd, hexec⟩ | ⟨w, rest, e, -, -, rfl⟩ | ⟨syms, hrst, hp, rfl⟩ |
    ⟨-, -, rfl⟩ | ⟨items, -, -, rfl⟩ | ⟨w, -, -, rfl⟩ := step_cases h
  · exact .inr (.inr ⟨rfl, .inl hrst⟩)
  · exact .inl rfl
  · obtain hsame | ⟨hset, rfl⟩ | ⟨hclear, m, rfl, hbit⟩ := exec_err hexec
    · exact .inl hsame
    · exact .inr (.inl ⟨hset, ha.1, .inr ⟨w, rest, ha, hd⟩⟩)
    · exact .inr (.inr ⟨hclear, .inr ⟨w, rest, m, ha, hd, hbit⟩⟩)
  · exact .inl (by simp [raise_illegal])
  · exact (continueRead_err syms s).imp_right fun hset => .inl ⟨hset, hrst, .inl ⟨syms, hp⟩⟩
  · exact .inl (by simp)
  · exact .inl (by simp)
  · exact .inl (by simp)

/-- Settles O34: the one case of `step_err` in which the flag rises. -/
theorem onlyDecReadSetsErr : Obligations.OnlyDecReadSetsErr := by
  intro s t h hs ht
  obtain hsame | ⟨-, hread⟩ | ⟨hclear, -⟩ := step_err h
  · simp [hs, ht] at hsame
  · exact hread
  · simp [ht] at hclear

/-! ## Commands while the error is recorded (R213) -/

/-- `t` is the end of a command issued in `s`, whose response has transferred and has the code OK (R74, R75). -/
def AnsweredOk (s t : State) : Prop := t.progress = .idle ∧ ∃ r, t.rsp = s.rsp ++ [r] ∧ responseCode r = 0#4

theorem respond_answeredOk (data : Acc) {s u : State} (hrsp : u.rspReady.accepts 1 = true) (hsame : u.rsp = s.rsp) :
    AnsweredOk s (respond .ok data u) := by
  rw [respond_of_accepts _ _ hrsp]
  exact ⟨rfl, responseWord .ok data, by rw [State.answered_rsp, hsame], responseCode_responseWord _ _⟩

theorem emitThenOk_answeredOk {items : List OutItem} (hmax : items.length ≤ Config.maxEmit) {s : State}
    (hout : s.outReady.accepts Config.maxEmit = true) (hrsp : s.rspReady.accepts 1 = true) (e : Enc) :
    AnsweredOk s (emitThenOk items (s.withEnc e)) := by
  rw [emitThenOk_of_outReady (s := s.withEnc e) (Ready.accepts_mono hout hmax)]
  exact respond_answeredOk 0 hrsp rfl

/-- ENC_WRITE's items are none, or a group's and its line break's (R7, R122). -/
theorem encWriteEffect_length_le (c : Cfg) (e : Enc) (b : Byte) :
    (encWriteEffect c e b).1.length ≤ Config.maxEmit := by
  unfold encWriteEffect
  split
  · exact Nat.zero_le _
  · exact Nat.zero_le _
  · exact (bytesUpTo_emitGroup c _ e.linecnt).1

/-- With a ready environment every command that is not the decoder's ends at once with the code OK. -/
theorem exec_answeredOk {i : Instr} {s : State} (hread : i ≠ .decRead) (hmore : i ≠ .decHasMore)
    (hrsp : s.rspReady.accepts 1 = true) (hout : s.outReady.accepts Config.maxEmit = true) :
    ∃ t, exec i s = .next t ∧ AnsweredOk s t := by
  cases i
  case encWrite b =>
    exact ⟨_, exec_encWrite b s, emitThenOk_answeredOk (encWriteEffect_length_le _ _ b) hout hrsp _⟩
  case encFlush =>
    exact ⟨_, exec_encFlush s, emitThenOk_answeredOk (by decide) hout hrsp s.enc⟩
  case encFinalize =>
    exact ⟨_, exec_encFinalize s, emitThenOk_answeredOk (tailThenEnd_length_le _ _) hout hrsp _⟩
  case decRead => exact absurd rfl hread
  case decHasMore => exact absurd rfl hmore
  -- NOP, CFG_WRITE, CFG_READ and SRST are their response OK to a state with the same response channel.
  all_goals exact ⟨_, rfl, respond_answeredOk _ hrsp rfl⟩

/-- Settles O38: the decoder commands' first test, the other commands by what they send, and the case of `step_err` in
which the flag falls. -/
theorem symbolErrorIsSticky : Obligations.SymbolErrorIsSticky := by
  refine ⟨fun s hrsp herr => ?_, fun i s hread hmore _ hrsp hout => ?_, fun s t h hs ht => ?_⟩
  · have hanswer := respond_of_accepts .errSymbol 0 hrsp
    exact ⟨(execDecRead_of_err herr).trans (congrArg _ hanswer),
      (execDecHasMore_of_err herr).trans (congrArg _ hanswer)⟩
  · obtain ⟨t, hexec, hidle, r, hrsp', hcode⟩ := exec_answeredOk hread hmore hrsp hout
    exact ⟨t, r, hexec, hidle, hrsp', hcode⟩
  · obtain hsame | ⟨hset, -⟩ | ⟨-, hclear⟩ := step_err h
    · simp [hs, ht] at hsame
    · simp [ht] at hset
    · exact hclear

end Sys2Proof.Machine

/-!
PROOF. Reset and hazards: a response that the host does not take, the items one DEC_READ takes, the symbols that survive
the decoder, and the reset edge (spec 70_reset_and_hazards.md R240, R246, R248, R250, R251).
-/

namespace Sys2Proof.Machine

/-! ## A response that is not taken (R246, R250) -/

/-- `f r` is what a command accepted in `s` leaves with a host of readiness `r`. The readiness decides no more than
whether the response transfers: whatever it is, the command comes to `v` and gives the response `w`, or comes to `v` and
waits there on another channel. -/
inductive EndsAlike (s : State) (f : Ready → State) : Prop where
  | answers (v : State) (w : Word) (hrsp : v.rsp = s.rsp) (hrst : v.rst = s.rst)
      (hf : ∀ r, f r = sendResponse w (setRspReady r v))
  | waits (v : State) (hrsp : v.rsp = s.rsp) (hidle : v.progress ≠ .idle) (hrespond : ∀ w, v.progress ≠ .respond w)
      (hf : ∀ r, f r = setRspReady r v)

theorem respond_endsAlike (rc : ResultCode) (data : Acc) {s v : State} (hrsp : v.rsp = s.rsp) (hrst : v.rst = s.rst) :
    EndsAlike s fun r => respond rc data (setRspReady r v) :=
  .answers v (responseWord rc data) hrsp hrst fun _ => rfl

/-- CFG_WRITE answers whatever it writes (R191). -/
theorem respond_withCfg_endsAlike (c : Cfg) (s : State) :
    EndsAlike s fun r => respond .ok 0 ((setRspReady r s).withCfg c) :=
  respond_endsAlike .ok 0 (v := s.withCfg c) rfl rfl

/-- CFG_READ reads no register that shows the host's readiness (R192). -/
theorem respond_readReg_endsAlike (reg : Reg) (s : State) :
    EndsAlike s fun r => respond .ok (readReg (setRspReady r s) reg) (setRspReady r s) := by
  have hread : ∀ r, readReg (setRspReady r s) reg = readReg s reg := fun r => by cases reg <;> rfl
  simp only [hread]
  exact respond_endsAlike .ok (readReg s reg) rfl rfl

/-- An encoder command answers once its items are appended, and until then waits on the output channel (R55). -/
theorem emitThenOk_endsAlike (items : List OutItem) (s : State) (e : Enc) :
    EndsAlike s fun r => emitThenOk items ((setRspReady r s).withEnc e) := by
  obtain hall | ⟨k, hready, hk⟩ := s.outReady.accepts_or_times_lt items.length
  · exact .answers ((s.withEnc e).emitted items) (responseWord .ok 0) rfl rfl
      fun r => emitThenOk_of_outReady (s := (setRspReady r s).withEnc e) hall
  · exact .waits { s with enc := e, out := s.out ++ items.take k, outReady := .times 0, progress := .emit (items.drop k) }
      rfl nofun nofun fun r => emitThenOk_of_lt (s := (setRspReady r s).withEnc e) hready hk

/-- DEC_READ answers once its group fetch has a verdict, and until then waits for input (R53). -/
theorem endRead_endsAlike (f : GroupFetch) (s : State) : EndsAlike s fun r => endRead f (setRspReady r s) := by
  obtain ⟨verdict, e, l⟩ := f
  cases verdict with
  | symbols ws =>
    cases hnone : yieldsNothing s.policy ws.length with
    | true =>
      exact .answers ((s.withInp l).withDec { s.dec with fill := 0, step := 0, exhausted := e })
        (responseWord .eod 0) rfl rfl fun _ => if_pos hnone
    | false =>
      exact .answers
        ((s.withInp l).withDec
          { s.dec with acc := assemble ws, fill := fillOf ws.length, step := 1, exhausted := e })
        (responseWord .byte ((byte1 (assemble ws)).setWidth 24)) rfl rfl fun _ => if_neg (Bool.eq_false_iff.1 hnone)
  | invalid =>
    exact .answers ((s.withInp l).withDec (s.dec.setExhausted e).faulted) (responseWord .errSymbol 0) rfl rfl
      fun _ => rfl
  | wait ws => exact .waits ((s.afterFetch ⟨.wait ws, e, l⟩).withProgress (.fetch ws)) rfl nofun nofun fun _ => rfl

/-- DEC_HAS_MORE answers once it sees an item, and until then waits for input (R53, R156). -/
theorem continuePeek_endsAlike (s : State) : EndsAlike s fun r => continuePeek (setRspReady r s) := by
  cases hinp : s.inp with
  | nil =>
    exact .waits (s.withProgress .peek) rfl nofun nofun fun r => continuePeek_of_nil (s := setRspReady r s) hinp
  | cons it rest =>
    cases it with
    | endOfStream =>
      exact .answers ((s.withInp rest).withDec (s.dec.setExhausted true)) (responseWord .ok 0) rfl rfl
        fun r => continuePeek_of_endOfStream (s := setRspReady r s) hinp
    | byte b =>
      exact .answers s (responseWord .ok 1) rfl rfl fun r => continuePeek_of_byte (s := setRspReady r s) hinp

theorem exec_decRead_endsAlike (s : State) :
    ∃ f, (∀ r, exec .decRead (setRspReady r s) = .next (f r)) ∧ EndsAlike s f := by
  cases herr : s.dec.err with
  | true =>
    exact ⟨_, fun r => execDecRead_of_err (s := setRspReady r s) herr, respond_endsAlike _ _ rfl rfl⟩
  | false =>
    cases hpending : s.dec.pending with
    | true =>
      exact ⟨fun r => returnPending (setRspReady r s),
        fun r => by simp [exec, execDecRead, setRspReady, herr, hpending],
        respond_endsAlike .byte ((if s.dec.step = 1 then byte2 s.dec.acc else byte3 s.dec.acc).setWidth 24)
          (v := s.withDec { s.dec with step := s.dec.step + 1 }) rfl rfl⟩
    | false =>
      exact ⟨_, fun r => execDecRead_of_not_pending (s := setRspReady r s) herr hpending,
        endRead_endsAlike (fetchGroup s.cfg 4 [] s.dec.exhausted s.inp) s⟩

theorem exec_decHasMore_endsAlike (s : State) :
    ∃ f, (∀ r, exec .decHasMore (setRspReady r s) = .next (f r)) ∧ EndsAlike s f := by
  cases hwants : s.dec.wantsInput with
  | true => exact ⟨_, fun r => execDecHasMore_of_wantsInput (s := setRspReady r s) hwants, continuePeek_endsAlike s⟩
  | false =>
    obtain ⟨rc, data, hanswer⟩ := execDecHasMore_of_not_wantsInput hwants
    exact ⟨_, fun r => hanswer (setRspReady r s) rfl, respond_endsAlike rc data rfl rfl⟩

/-- No command depends on the host's readiness but in the transfer of its response (R246). -/
theorem exec_endsAlike (i : Instr) (s : State) :
    ∃ f, (∀ r, exec i (setRspReady r s) = .next (f r)) ∧ EndsAlike s f := by
  cases i
  case encWrite b =>
    exact ⟨_, fun r => exec_encWrite b (setRspReady r s),
      emitThenOk_endsAlike (encWriteEffect s.cfg s.enc b).1 s (encWriteEffect s.cfg s.enc b).2⟩
  case encFlush => exact ⟨_, fun r => exec_encFlush (setRspReady r s), emitThenOk_endsAlike _ s s.enc⟩
  case encFinalize =>
    exact ⟨_, fun r => exec_encFinalize (setRspReady r s),
      emitThenOk_endsAlike (tailItems s.cfg s.enc ++ [.endOfStream]) s Enc.reset⟩
  case decRead => exact exec_decRead_endsAlike s
  case decHasMore => exact exec_decHasMore_endsAlike s
  case srst m => exact ⟨_, fun _ => rfl, respond_endsAlike .ok 0 (v := softReset m s) rfl rfl⟩
  case cfgWriteSym62 val => exact ⟨_, fun _ => rfl, respond_withCfg_endsAlike { s.cfg with sym62 := val } s⟩
  case cfgWriteSym63 val => exact ⟨_, fun _ => rfl, respond_withCfg_endsAlike { s.cfg with sym63 := val } s⟩
  case cfgWritePad val => exact ⟨_, fun _ => rfl, respond_withCfg_endsAlike { s.cfg with pad := val } s⟩
  case cfgWriteLineLen val => exact ⟨_, fun _ => rfl, respond_withCfg_endsAlike { s.cfg with lineLen := val } s⟩
  case nop => exact ⟨_, fun _ => rfl, respond_endsAlike .ok 0 (v := s) rfl rfl⟩
  -- The other ten are CFG_READ, one for each register.
  all_goals exact ⟨_, fun _ => rfl, respond_readReg_endsAlike _ s⟩

/-- A response held out by the core transfers as soon as the host is ready for one (R246). -/
theorem step_held_response {v : State} (w : Word) (hrst : v.rst = false) {q : Ready} (hq : q.accepts 1 = true) :
    step ((setRspReady q v).withProgress (.respond w)) = .next ((setRspReady q v).answered w) := by
  rw [step_of_respond (s := (setRspReady q v).withProgress (.respond w)) hrst rfl,
    sendResponse_of_accepts (s := (setRspReady q v).withProgress (.respond w)) w hq]
  rfl

/-- Settles O47: the two hosts bring the command to the same state, from which one holds the response and the other has
it, or in which both wait. -/
theorem heldResponseDelaysOnlyTheEnd : Obligations.HeldResponseDelaysOnlyTheEnd := by
  intro i s t u hrst hheld ht hu
  obtain ⟨f, hexec, hf⟩ := exec_endsAlike i s
  cases (hexec s.rspReady).symm.trans ht
  cases (hexec .always).symm.trans hu
  cases hf with
  | answers v w hrsp hrstv hf =>
    left
    rw [hf s.rspReady, hf .always, sendResponse_of_not_accepts (s := setRspReady s.rspReady v) w hheld,
      sendResponse_of_accepts (s := setRspReady .always v) w rfl, ← hrsp]
    exact ⟨w, rfl, rfl, rfl, fun q hq => step_held_response w (hrstv.trans hrst) hq⟩
  | waits v hrsp hidle hrespond hf =>
    right
    rw [hf s.rspReady, hf .always]
    exact ⟨rfl, hrsp, hidle, hrespond⟩

/-! ## The items one DEC_READ takes (R251) -/

section
variable {p : InItem → Bool} (hp : ∀ b, isSkip b = true → p (.byte b) = false)
include hp

/-- A symbol fetch takes skip bytes and at most one item more (R151). -/
theorem takeSymbol_taken (c : Cfg) (inp : List InItem) :
    ∃ taken, inp = taken ++ (takeSymbol c inp).inp ∧ (taken.filter p).length ≤ 1 := by
  induction inp with
  | nil => exact ⟨[], rfl, Nat.zero_le _⟩
  | cons it rest ih =>
    have hone : ([it].filter p).length ≤ 1 := List.length_filter_le p [it]
    cases it with
    | endOfStream => exact ⟨[.endOfStream], rfl, hone⟩
    | byte b =>
      cases hb : classify c b with
      | skip =>
        obtain ⟨taken, hrest, hlen⟩ := ih
        refine ⟨.byte b :: taken, ?_, ?_⟩
        · rw [takeSymbol, hb, List.cons_append, ← hrest]
        · rwa [List.filter_cons_of_neg (by simp [hp b ((classify_skip_iff c b).1 hb)])]
      | pad => exact ⟨[.byte b], by rw [takeSymbol_pad c b rest hb]; rfl, hone⟩
      | sym v => exact ⟨[.byte b], by rw [takeSymbol_sym c b v rest hb]; rfl, hone⟩
      | invalid => exact ⟨[.byte b], by rw [takeSymbol_invalid c b rest hb]; rfl, hone⟩

theorem nextSymbol_taken (c : Cfg) (e : Bool) (inp : List InItem) :
    ∃ taken, inp = taken ++ (nextSymbol c e inp).inp ∧ (taken.filter p).length ≤ 1 := by
  cases e with
  | true => exact ⟨[], rfl, Nat.zero_le _⟩
  | false => exact takeSymbol_taken hp c inp

/-- A group fetch makes at most one symbol fetch for each symbol that is still wanted (R153). -/
theorem fetchGroup_taken (c : Cfg) (todo : Nat) (vs : List SymVal) (e : Bool) (inp : List InItem) :
    ∃ taken, inp = taken ++ (fetchGroup c todo vs e inp).inp ∧ (taken.filter p).length ≤ todo := by
  induction todo generalizing vs e inp with
  | zero => exact ⟨[], rfl, Nat.zero_le _⟩
  | succ todo ih =>
    obtain ⟨first, hfirst, hone⟩ := nextSymbol_taken hp c e inp
    have hstop : (first.filter p).length ≤ todo + 1 := hone.trans (Nat.le_add_left 1 todo)
    unfold fetchGroup
    dsimp only
    split
    · next v _ =>
      obtain ⟨later, hlater, hlen⟩ := ih (vs ++ [v]) (nextSymbol c e inp).exhausted (nextSymbol c e inp).inp
      refine ⟨first ++ later, ?_, ?_⟩
      · rw [List.append_assoc, ← hlater, ← hfirst]
      · rw [List.filter_append, List.length_append]
        omega
    all_goals exact ⟨first, hfirst, hstop⟩

theorem execDecRead_taken {s t : State} (h : execDecRead s = .next t) :
    ∃ taken, s.inp = taken ++ t.inp ∧ (taken.filter p).length ≤ 4 := by
  obtain ⟨-, rfl⟩ | ⟨-, -, rfl⟩ | ⟨-, -, rfl⟩ := execDecRead_cases h
  · exact ⟨[], by simp, Nat.zero_le _⟩
  · exact ⟨[], by simp, Nat.zero_le _⟩
  · rw [continueRead_inp]
    exact fetchGroup_taken hp s.cfg 4 [] s.dec.exhausted s.inp

end

/-- Settles O43: a group is four symbol fetches at most, and each takes one item that is no skip byte at most. -/
theorem decReadTakesAtMostFourSymbols : Obligations.DecReadTakesAtMostFourSymbols :=
  fun _ _ h => execDecRead_taken (fun b hb => by simp [hb]) h

/-! ## Symbols that survive (R248) -/

/-- A configuration under which every symbol survives: the lookup inverts, and the tests before it pass each symbol. -/
theorem roundTrips_of_classify {c : Cfg} (h : ∀ v : SymVal, classify c (encodeSymbol c v) = .sym v) : c.roundTrips := by
  have hdistinct : c.distinctSymbols := (decodeSymbol_encodeSymbol_iff c).1 fun v => by
    obtain ⟨-, -, hlookup⟩ := (classify_sym_iff c _ v).1 (h v)
    exact hlookup
  have hreach := fun v => (classify_encodeSymbol_iff hdistinct v).1 (h v)
  obtain ⟨hskip₆₂, heq₆₂, hpad₆₂⟩ := hreach 62#6
  obtain ⟨hskip₆₃, heq₆₃, hpad₆₃⟩ := hreach 63#6
  refine ⟨hdistinct, hskip₆₂, hskip₆₃, heq₆₂, heq₆₃, hpad₆₂, hpad₆₃, .inr fun v => ?_⟩
  obtain ⟨-, -, hpad⟩ := hreach v
  exact hpad

/-- Settles O21: one direction is the round-trip law's, the other reads the conditions off the surviving symbols. -/
theorem symbolsSurviveExactlyUnderRoundTripConditions : Obligations.SymbolsSurviveExactlyUnderRoundTripConditions :=
  fun _ => ⟨roundTrips_of_classify, classify_encodeSymbol_of_roundTrips⟩

/-! ## The reset edge (R240) -/

/-- Settles O50: the step is the reset edge, and the ports are those of a core in reset. -/
theorem resetAbandonsCommandInProgress : Obligations.ResetAbandonsCommandInProgress := by
  intro s hrst
  obtain ⟨-, hports, -⟩ := portLevelsFollowProgress s
  exact ⟨resetEdge s, step_of_rst hrst, rfl, rfl, rfl, rfl, rfl, rfl, rfl, rfl, rfl, hports hrst⟩

end Sys2Proof.Machine
